-- ==== Sys2Proof/Word.lean ====
section
/-! DEFINITION. The word types of the block (spec/00_scope.md R7, R9). -/

namespace Sys2Proof

/-- A byte: an unsigned 8-bit value (R9). -/
abbrev Byte := BitVec 8

/-- A nibble: an unsigned 4-bit value (R9). -/
abbrev Nibble := BitVec 4

/-- `W`, the width of the clock and of every time register: 32 (R7, decision D6). -/
abbrev timeWidth : Nat := 32

/-- A time: an unsigned W-bit value (R9). -/
abbrev Time := BitVec timeWidth

/-- A register index of the configuration space (44_control.md R240). -/
abbrev CfgIndex := BitVec 16

/-- A configuration word (44_control.md R240). -/
abbrev CfgWord := BitVec 32

end Sys2Proof
end

