-- ==== Sys2Proof/Config.lean ====
section
/-! DEFINITION. The implementation parameters of 00_scope.md R7: their type, their constraints, and one build of which
nothing but the constraints is known. -/

namespace Sys2Proof

/-- The build-time parameters of 00_scope.md R7 (`W` is `timeWidth`). They do not change while the block runs
(10_state.md R39). -/
structure Build where
  /-- `C` = `RING_CAPACITY`, in frames. -/
  ringCapacity : Nat
  /-- `MAX_RESPONSE_LEN`, in bytes including the command byte. -/
  maxResponseLen : Nat
  /-- `MAX_REQUEST_LEN`, in bytes. -/
  maxRequestLen : Nat
  /-- `MAX_OOB_PAYLOAD`, the largest additional-byte count in the table. -/
  maxOobPayload : Nat
  /-- `OOB_LEN_TABLE`: the known ids with their additional-byte counts; an id that is not listed is UNKNOWN, and of
  two entries for one id the first counts. -/
  oobTable : List (Byte × Nat)
  /-- `CHANNEL_READ_TIMEOUT_MS`. -/
  channelReadTimeoutMs : Time
  /-- `RX_FIFO_DEPTH`, in bytes. -/
  rxFifoDepth : Nat
  /-- `TX_FIFO_DEPTH`, in bytes. -/
  txFifoDepth : Nat
  /-- `RESET_RESP_TIMEOUT_MS`. -/
  resetRespTimeoutMs : Time
  /-- `RESET_REQ_DELAY_MS`. -/
  resetReqDelayMs : Time
  /-- `RESET_RELEASE`. -/
  resetRelease : Bool
  deriving DecidableEq, Repr

/-- `OOB_LEN_TABLE(c)`: the additional-byte count of the notification id `c`, `none` for UNKNOWN
(30_encoding.md R97). -/
def Build.oobLen (b : Build) (c : Byte) : Option Nat := b.oobTable.lookup c

/-- The constraint column of 00_scope.md R7. -/
def Build.wf (b : Build) : Bool :=
  decide (1 ≤ b.ringCapacity ∧ b.ringCapacity ≤ 255) &&
  decide (1 ≤ b.maxResponseLen ∧ b.maxResponseLen ≤ 255) &&
  decide (1 ≤ b.maxRequestLen ∧ b.maxRequestLen ≤ 255) &&
  decide (b.maxOobPayload ≤ 254) &&
  b.oobTable.all (fun e => decide (e.2 ≤ b.maxOobPayload)) &&
  decide (2 ≤ b.rxFifoDepth) && decide (1 ≤ b.txFifoDepth)

/-! The OPEN parameters (00_scope.md R7; log entry 6). The constants have no body: nothing can be proved about them but
what their types say, and the types range over exactly the values the constraint column allows. -/

/-- `C - 1`, so that `C` is any of 1..255. -/
opaque Config.ringCapacityLessOne : Fin 255

/-- `MAX_RESPONSE_LEN - 1`. -/
opaque Config.maxResponseLenLessOne : Fin 255

/-- `MAX_REQUEST_LEN - 1`. -/
opaque Config.maxRequestLenLessOne : Fin 255

/-- `MAX_OOB_PAYLOAD`, any of 0..254. -/
opaque Config.maxOobPayload : Fin 255

/-- The entries of `OOB_LEN_TABLE`, each count at most `MAX_OOB_PAYLOAD`. -/
opaque Config.oobEntries : List (Byte × Fin (Config.maxOobPayload.val + 1))

/-- `CHANNEL_READ_TIMEOUT_MS`. -/
opaque Config.channelReadTimeoutMs : Time

/-- `RX_FIFO_DEPTH - 2`. -/
opaque Config.rxFifoDepthLessTwo : Nat

/-- `TX_FIFO_DEPTH - 1`. -/
opaque Config.txFifoDepthLessOne : Nat

/-- `RESET_RESP_TIMEOUT_MS`. -/
opaque Config.resetRespTimeoutMs : Time

/-- `RESET_REQ_DELAY_MS`. -/
opaque Config.resetReqDelayMs : Time

/-- `RESET_RELEASE`. -/
opaque Config.resetRelease : Bool

/-- The build that `State.reset` has: every OPEN parameter is one of the constants above (00_scope.md R7). -/
def Config.build : Build where
  ringCapacity := Config.ringCapacityLessOne.val + 1
  maxResponseLen := Config.maxResponseLenLessOne.val + 1
  maxRequestLen := Config.maxRequestLenLessOne.val + 1
  maxOobPayload := Config.maxOobPayload.val
  oobTable := Config.oobEntries.map (fun e => (e.1, e.2.val))
  channelReadTimeoutMs := Config.channelReadTimeoutMs
  rxFifoDepth := Config.rxFifoDepthLessTwo + 2
  txFifoDepth := Config.txFifoDepthLessOne + 1
  resetRespTimeoutMs := Config.resetRespTimeoutMs
  resetReqDelayMs := Config.resetReqDelayMs
  resetRelease := Config.resetRelease

end Sys2Proof
end

