-- ==== Sys2Proof/Syntax.lean ====
section
/-! DEFINITION. The host commands, one constructor per row of spec/opcode_table.json (30_encoding.md R98, R101). -/

namespace Sys2Proof

/-- A host command with its operands (30_encoding.md R98, R101). -/
inductive Instr where
  /-- DEC_NIBBLE, opcode 0x01, format F1 (40_codec.md R120). -/
  | decNibble (ch : Byte)
  /-- DEC_BYTE, opcode 0x02, format F2 (40_codec.md R122). -/
  | decByte (hi lo : Byte)
  /-- ENC_BYTE, opcode 0x03, format F1 (40_codec.md R124). -/
  | encByte (b : Byte)
  /-- BUS_DEV, opcode 0x10, format F0 (42_arbiter.md R161). -/
  | busDev
  /-- BUS_CON, opcode 0x11, format F0 (42_arbiter.md R162). -/
  | busCon
  /-- BUS_DIR, opcode 0x12, format F0 (42_arbiter.md R163). -/
  | busDir
  /-- CON_WRITE, opcode 0x13, format FW (42_arbiter.md R164). -/
  | conWrite (bytes : List Byte)
  /-- SESSION_INIT, opcode 0x20, format FS (43_transport.md R185). -/
  | sessionInit (bytes : List Byte)
  /-- SEND_REQ, opcode 0x21, format FR: `flags` bit 0 is EXPECT, bits 7:1 are reserved (43_transport.md R186). -/
  | sendReq (flags : Byte) (bytes : List Byte)
  /-- GET_RESP, opcode 0x22, format FC (43_transport.md R187). -/
  | getResp (cap : BitVec 16)
  /-- POP_NOTIF, opcode 0x23, format F0 (43_transport.md R188). -/
  | popNotif
  /-- RING_AVAIL, opcode 0x24, format F0 (41_ring.md R142). -/
  | ringAvail
  /-- CFG_READ, opcode 0x30, format FI (44_control.md R247). -/
  | cfgRead (idx : CfgIndex)
  /-- CFG_WRITE, opcode 0x31, format FIV (44_control.md R248). -/
  | cfgWrite (idx : CfgIndex) (v : CfgWord)
  deriving DecidableEq, Repr

/-- The bytes of a command's list operand; `[]` for a command that has none. -/
def Instr.listOperand : Instr → List Byte
  | .decNibble _ => []
  | .decByte _ _ => []
  | .encByte _ => []
  | .busDev => []
  | .busCon => []
  | .busDir => []
  | .conWrite bytes => bytes
  | .sessionInit bytes => bytes
  | .sendReq _ bytes => bytes
  | .getResp _ => []
  | .popNotif => []
  | .ringAvail => []
  | .cfgRead _ => []
  | .cfgWrite _ _ => []

end Sys2Proof
end

