-- ==== Sys2Proof/Machine/State.lean ====
section
/-! DEFINITION. The architectural state of the block (10_state.md), the reasons a step can stop, and reset
(70_reset_and_hazards.md R290, R291). -/

namespace Sys2Proof.Machine

/-- BusDirection, the two sides of the selector: 1 = `ToDevice`, 0 = `ToConsole` (10_state.md R31). It also names the
side a line agent or a wire byte is on. -/
inductive Direction where
  | toConsole
  | toDevice
  deriving DecidableEq, Repr

/-- The status kinds of 60_exceptions.md R260. -/
inductive Status where
  | ok
  | notConnected
  | noRequest
  | param
  | timeout
  | responseTooShort
  | empty
  | busy
  | illegalOp
  /-- Reserved, never produced by the block (R260). -/
  | badResponse
  /-- Reserved, never produced by the block (R260). -/
  | maxRetriesExceeded
  deriving DecidableEq, Repr

/-- The kinds of a log-port record (60_exceptions.md R273). -/
inductive LogKind where
  | unknownOob
  | shortOob
  deriving DecidableEq, Repr

/-- The pair RESULT holds (10_state.md R37). -/
structure Result where
  status : Status
  data : List Byte
  deriving DecidableEq, Repr

/-- One output of the block (10_state.md R40). -/
inductive Event where
  /-- SEL changed to this side (R31). -/
  | sel (d : Direction)
  /-- The serializer emitted a byte on this side (20_memory.md R70). -/
  | wire (side : Direction) (b : Byte)
  /-- A command ended with this RESULT (R37). -/
  | result (r : Result)
  /-- A record on the log port (60_exceptions.md R273). -/
  | log (kind : LogKind) (id : Byte)
  deriving DecidableEq, Repr

/-- One frame slot: `FLEN` and `FB[0..MAX_OOB_PAYLOAD]` (10_state.md R32). -/
structure Slot where
  flen : Nat
  fb : List Byte
  deriving DecidableEq, Repr

/-- The notification ring (10_state.md R32). -/
structure Ring where
  /-- `SLOT[0..C-1]`. -/
  slots : List Slot
  /-- `RD`. -/
  rd : Nat
  /-- `WR`. -/
  wr : Nat
  /-- `COUNT`. -/
  count : Nat
  deriving DecidableEq, Repr

/-- One move of an agent other than the running sequencer, or one micro-step of the sequencer (00_scope.md R5). -/
inductive Input where
  /-- The host issues a command, as its record (30_encoding.md R98). -/
  | command (bytes : List Byte)
  /-- The sequencer takes one micro-step. -/
  | seq
  /-- The line agent of `side` offers the byte `b` (20_memory.md R69). -/
  | arrive (side : Direction) (b : Byte)
  /-- The TX serializer moves (20_memory.md R70). -/
  | emit
  /-- The clock advances by `ms` (00_scope.md R5). -/
  | tick (ms : Time)
  /-- Reset asserts (70_reset_and_hazards.md R290). -/
  | reset
  deriving DecidableEq, Repr

/-- What the environment does once the moves entered in `inputs` are used up (log entry 21). -/
inductive Source where
  /-- Nothing more: no agent but the sequencer and the host moves. -/
  | ends
  /-- It makes these moves again and again, without end. -/
  | cycle (moves : List Input)
  /-- It makes round after round of moves that nothing is known of (`Config.schedule`). -/
  | free
  deriving DecidableEq, Repr

/-- The two characters SCAN_STEP has popped (43_transport.md R182). -/
structure HexPair where
  h : Byte
  l : Byte
  deriving DecidableEq, Repr

/-- What a scan step answers: the values of `r` in 43_transport.md R182, R184 and R187. -/
inductive ScanResult where
  | correlated
  | tooShort
  | probeHit
  | oob
  | none
  deriving DecidableEq, Repr

/-- Who called RX_READ, with its locals (43_transport.md R183, R184). -/
inductive Reader where
  /-- PAYLOAD_READ, for `n` response bytes. -/
  | payload (n : Nat)
  /-- OOB_DECODE of the id `c`, for `e` additional bytes. -/
  | oob (c : Byte) (e : Nat)
  deriving DecidableEq, Repr

/-- The micro-step position `μ` of a running command, with the locals its pseudocode keeps (10_state.md R36; the
statements are those of 43_transport.md and 42_arbiter.md). `next` and `back` are the position a primitive returns to. -/
inductive Micro where
  /-- The command's first statement. -/
  | start
  /-- A `Wait()` of a blocking loop, which is tested again at `back` (00_scope.md R11). -/
  | wait (back : Micro)
  /-- `TxFlush()` of `SWITCH(d)` (42_arbiter.md R160). -/
  | flush (d : Direction) (next : Micro)
  /-- `if DIR != d then DIR <- d` of `SWITCH(d)` (R160). -/
  | steer (d : Direction) (next : Micro)
  /-- `TxPush` of each byte still in `bytes` (20_memory.md R70). -/
  | push (bytes : List Byte) (next : Micro)
  /-- `finish(st, data)` (00_scope.md R11). -/
  | finish (st : Status) (data : List Byte)
  /-- `done:` of GET_RESP and POP_NOTIF, the RELEASE restore (43_transport.md R187, R188). -/
  | release (st : Status) (data : List Byte)
  /-- `CLEAR_PENDING()`, then `done:` (10_state.md R26, 43_transport.md R187). -/
  | clear (st : Status) (data : List Byte)
  /-- RX_READ(n): `t <- Now()` (43_transport.md R180). -/
  | readStart (n : Nat) (k : Reader)
  /-- RX_READ(n): `s <- []`. -/
  | readInit (n : Nat) (t : Time) (k : Reader)
  /-- RX_READ(n): its loop, with `t` and `s` (R180). -/
  | reading (n : Nat) (t : Time) (s : List Byte) (k : Reader)
  /-- RX_READ has returned `s` to its caller (R183, R184). -/
  | readDone (s : List Byte) (k : Reader)
  /-- SCAN_STEP: `h <- RxPop(); l <- RxPop()`, "one micro-step" (43_transport.md R182). -/
  | scanPop
  /-- SCAN_STEP: `c <- pair(h, l)`. -/
  | scanDecode (p : HexPair)
  /-- SCAN_STEP: the correlation test of `c`. -/
  | scanMatch (c : Byte)
  /-- SCAN_STEP: `RESP_BUF[0] <- c`. -/
  | scanStore (c : Byte)
  /-- SCAN_STEP: `if EXPECTED_LEN == 0`. -/
  | scanProbe
  /-- SCAN_STEP: `MATCHED <- 1`. -/
  | scanLatch
  /-- OOB_DECODE(c): `e <- OOB_LEN_TABLE(c)` (43_transport.md R183). -/
  | oobLookup (c : Byte)
  /-- OOB_DECODE(c): `if e == UNKNOWN`, with `e`. -/
  | oobKnown (c : Byte) (e : Option Nat)
  /-- OOB_DECODE(c): `RX_DISCARD()` before the record of `kind`. -/
  | oobDiscard (kind : LogKind) (c : Byte)
  /-- OOB_DECODE(c): `LogEvent(kind, c)`. -/
  | oobLog (kind : LogKind) (c : Byte)
  /-- OOB_DECODE: `RING_PUSH(frame)`. -/
  | oobPush (frame : List Byte)
  /-- PAYLOAD_READ: `n <- EXPECTED_LEN - 1` (43_transport.md R184). -/
  | payloadLen
  /-- PAYLOAD_READ: `MemWrite(RESP_BUF, 1, n, bytes)`. -/
  | payloadStore (bytes : List Byte)
  /-- PAYLOAD_READ: `RX_DISCARD()` of a short read. -/
  | payloadDiscard
  /-- A scan step, or PAYLOAD_READ, has answered `r`: the caller's first test of it. -/
  | scanned (r : ScanResult)
  /-- SESSION_INIT: `CONNECTED <- 1` (43_transport.md R185). -/
  | connect
  /-- SEND_REQ: the Busy test (43_transport.md R186). -/
  | sendBusy
  /-- SEND_REQ: the Param test. -/
  | sendParam
  /-- SEND_REQ: the spacing loop. -/
  | spacing
  /-- SEND_REQ: `PENDING_ID <- s[0]` or `0`. -/
  | setPending
  /-- SEND_REQ: `EXPECTED_LEN <- 0`. -/
  | clearLen
  /-- SEND_REQ: `MATCHED <- 0`. -/
  | clearMatched
  /-- SEND_REQ: `LAST_SEND <- Now()`. -/
  | stampTime
  /-- SEND_REQ: `LAST_SEND_VALID <- 1`. -/
  | stampValid
  /-- GET_RESP: the NoRequest test (43_transport.md R187). -/
  | respPending
  /-- GET_RESP: the Param test. -/
  | respCap
  /-- GET_RESP: `EXPECTED_LEN <- cap[7:0]`. -/
  | respLen
  /-- GET_RESP: the head of its loop. -/
  | respLoop
  /-- GET_RESP: `if r == CORRELATED`'s `data <- [EXPECTED_LEN] ++ MemRead(RESP_BUF, 0, EXPECTED_LEN)`. -/
  | respCollect
  /-- GET_RESP: `if r == TOO_SHORT`, of a pass that answered `r`. -/
  | respShort (r : ScanResult)
  /-- GET_RESP: the timeout test of a pass that answered `r`. -/
  | respDeadline (r : ScanResult)
  /-- GET_RESP: `if r == NONE then Wait()`. -/
  | respYield (r : ScanResult)
  /-- POP_NOTIF: `if MATCHED == 0` (43_transport.md R188). -/
  | popMatched
  /-- POP_NOTIF: the head of its scan loop. -/
  | popLoop
  /-- POP_NOTIF: `f <- RING_POP()`. -/
  | popRing
  /-- POP_NOTIF: `if f == NONE`, with `f`. -/
  | popped (f : Option (List Byte))
  /-- CFG_READ: `v <- value of register idx` (44_control.md R247). -/
  | cfgLoad
  deriving DecidableEq, Repr

/-- PHASE (10_state.md R36). A record with an illegal opcode has no command to be in progress: `fetchRecord` completes it
in the move that issues it (log entry 20). -/
inductive Phase where
  | idle
  | busy (cmd : Instr) (pos : Micro)
  deriving DecidableEq, Repr

/-- Everything the spec gives the block (10_state.md), its outputs so far (R40), and fields of the model's own:
`build` (log entry 6), `inputs` (log entry 1), `source` and `rounds` (log entry 21). -/
structure State where
  /-- The build parameters; no state of the block (10_state.md R39), carried so that a claim holds for every build. -/
  build : Build
  /-- `CONNECTED` (R22). -/
  connected : Bool
  /-- `PENDING_ID`; 0 is "none outstanding" (R23). -/
  pendingId : Byte
  /-- `EXPECTED_LEN` (R24). -/
  expectedLen : Byte
  /-- `MATCHED` (R25). -/
  matched : Bool
  /-- `RESP_BUF[0..MAX_RESPONSE_LEN-1]` (R27). -/
  respBuf : List Byte
  /-- `LAST_SEND` (R28). -/
  lastSend : Time
  /-- `LAST_SEND_VALID` (R28). -/
  lastSendValid : Bool
  /-- `GET_T0` (R29). -/
  getT0 : Time
  /-- `NOW`, the clock input (R30). -/
  now : Time
  /-- `DIR`, and with it the output SEL (R31). -/
  dir : Direction
  /-- The notification ring (R32). -/
  ring : Ring
  /-- `RX`, oldest byte first (R34). -/
  rx : List Byte
  /-- `TX`, oldest byte first (R35). -/
  tx : List Byte
  /-- `PHASE` (R36). -/
  phase : Phase
  /-- `RESULT`; `none` is NONE (R37). -/
  result : Option Result
  /-- `RESP_TIMEOUT_MS` (R38). -/
  respTimeoutMs : Time
  /-- `REQ_DELAY_MS` (R38). -/
  reqDelayMs : Time
  /-- `CTRL` bit 0, `RELEASE`; bits 31:1 of CTRL are not implemented (R38). -/
  release : Bool
  /-- The outputs so far, oldest first (R40). -/
  history : List Event
  /-- The moves the host and the environment still make, next one first (log entry 1). -/
  inputs : List Input
  /-- What the environment does once `inputs` is used up (log entry 21). -/
  source : Source
  /-- How many rounds of `Config.schedule` have been entered in `inputs` (log entry 21). -/
  rounds : Nat
  deriving DecidableEq, Repr

/-- What stops the machine with a fault. The block itself has none: every error of the spec is a status code
(60_exceptions.md R261). -/
inductive Fault where
  /-- Raised by `step` when the host's record is not one whole command: it ends before the command does, or goes on
  behind it. 30_encoding.md R98 knows no such record. Safe: the model stops where the spec has no move. -/
  | partialRecord
  deriving DecidableEq, Repr

/-- What the model has no meaning for. -/
inductive Refusal where
  /-- Raised by no arm any more: every command has its meaning. Safe. -/
  | notModelled (mnemonic : String)
  /-- Raised by `exec` of one command in a state where another is in progress; 60_exceptions.md R275 gives that no move,
  and `step` never asks for it. Safe. -/
  | commandWhileBusy
  deriving DecidableEq, Repr

/-- Every register at its reset value, for a given build (70_reset_and_hazards.md R291). The contents R291 calls
unspecified (RESP_BUF, the slots, LAST_SEND, GET_T0, NOW) are 0 (log entry 5, DESIGN CHOICE). -/
def State.resetOf (b : Build) : State where
  build := b
  connected := false
  pendingId := 0
  expectedLen := 0
  matched := false
  respBuf := List.replicate b.maxResponseLen 0
  lastSend := 0
  lastSendValid := false
  getT0 := 0
  now := 0
  dir := .toConsole
  ring :=
    { slots := List.replicate b.ringCapacity ⟨0, List.replicate (b.maxOobPayload + 1) 0⟩
      rd := 0
      wr := 0
      count := 0 }
  rx := []
  tx := []
  phase := .idle
  result := none
  respTimeoutMs := b.resetRespTimeoutMs
  reqDelayMs := b.resetReqDelayMs
  release := b.resetRelease
  history := []
  inputs := []
  source := .ends
  rounds := 0

/-- The machine right after reset (70_reset_and_hazards.md R291), of the build of which only R7 is known. -/
def State.reset : State := State.resetOf Config.build

end Sys2Proof.Machine

/-- The environment's further moves, in rounds: a free value, of which nothing can be proved (00_scope.md R5; log
entry 21). -/
opaque Sys2Proof.Config.schedule : Nat → List Sys2Proof.Machine.Input
end

