-- ==== Sys2Proof/Machine/Operands.lean ====
section
/-! DEFINITION. The operand forms of the host commands (30_encoding.md R98, R103) and the codes of their results
(60_exceptions.md R260, R273). -/

namespace Sys2Proof.Machine

/-- EXPECT, `flags[0]` (30_encoding.md R98). -/
def expectFlag (flags : Byte) : Bool := flags.getLsbD 0

/-- `flags[7:1]`, which are reserved (30_encoding.md R98, R103). -/
def reservedFlags (flags : Byte) : BitVec 7 := flags.extractLsb' 1 7

/-- SEND_REQ's Param test: a reserved flag bit, an empty request, or one longer than MAX_REQUEST_LEN
(43_transport.md R186). -/
def badRequest (b : Build) (flags : Byte) (bytes : List Byte) : Bool :=
  decide (reservedFlags flags ≠ 0 ∨ bytes.length = 0 ∨ b.maxRequestLen < bytes.length)

/-- What SEND_REQ records in PENDING_ID: `s[0]` if EXPECT, else the sentinel 0 (43_transport.md R186). -/
def requestId (flags : Byte) (bytes : List Byte) : Byte := if expectFlag flags then bytes.headD 0 else 0

/-- GET_RESP's Param test: no capacity, or more than MAX_RESPONSE_LEN (43_transport.md R187). -/
def badCapacity (b : Build) (cap : BitVec 16) : Bool := decide (cap = 0 ∨ b.maxResponseLen < cap.toNat)

/-- `cap[7:0]` (43_transport.md R187). -/
def capByte (cap : BitVec 16) : Byte := cap.extractLsb' 0 8

/-- A count as a result byte (41_ring.md R142, 43_transport.md R188). -/
def countByte (n : Nat) : Byte := BitVec.ofNat 8 n

/-- BUS_DIR's result: 1 = ToDevice, 0 = ToConsole (42_arbiter.md R163). -/
def Direction.toByte : Direction → Byte
  | .toConsole => 0
  | .toDevice => 1

/-- A register of the configuration space (44_control.md R240). -/
inductive CfgReg where
  | status
  | respTimeoutMs
  | reqDelayMs
  | ctrl
  | ringCapacity
  | maxResponseLen
  | maxRequestLen
  | maxOobPayload
  | channelReadTimeoutMs
  | oobLen (c : Byte)
  deriving DecidableEq, Repr

/-- The register at an index; `none` for an unassigned index (44_control.md R240). -/
def cfgReg (idx : CfgIndex) : Option CfgReg :=
  match idx.toNat with
  | 0x0000 => some .status
  | 0x0001 => some .respTimeoutMs
  | 0x0002 => some .reqDelayMs
  | 0x0003 => some .ctrl
  | 0x0004 => some .ringCapacity
  | 0x0005 => some .maxResponseLen
  | 0x0006 => some .maxRequestLen
  | 0x0007 => some .maxOobPayload
  | 0x0008 => some .channelReadTimeoutMs
  | n => if 0x0100 ≤ n ∧ n ≤ 0x01FF then some (.oobLen (BitVec.ofNat 8 (n - 0x0100))) else none

/-- The numeric value of a status (60_exceptions.md R260). -/
def Status.code : Status → Byte
  | .ok => 0x00
  | .notConnected => 0x01
  | .noRequest => 0x02
  | .param => 0x03
  | .timeout => 0x04
  | .responseTooShort => 0x05
  | .empty => 0x06
  | .busy => 0x07
  | .illegalOp => 0x08
  | .badResponse => 0x09
  | .maxRetriesExceeded => 0x0A

/-- The numeric value of a log kind (60_exceptions.md R273). -/
def LogKind.code : LogKind → Byte
  | .unknownOob => 0x01
  | .shortOob => 0x02

/-- A command's result as the host reads it: `[status] ++ data` (30_encoding.md R100). -/
def Result.bytes (r : Result) : List Byte := r.status.code :: r.data

end Sys2Proof.Machine
end

