-- ==== Sys2Proof/Machine/Hex.lean ====
section
/-! DEFINITION. The hex functions of the wire format (30_encoding.md R90-R93, 40_codec.md R121, R125). -/

namespace Sys2Proof.Machine

/-- The nibble a character decodes to; 0 for a character that is no hex digit (30_encoding.md R91). -/
def hexval (x : Byte) : Nibble :=
  if 0x30 ≤ x ∧ x ≤ 0x39 then (x - 0x30).setWidth 4
  else if 0x41 ≤ x ∧ x ≤ 0x46 then (x - 0x37).setWidth 4
  else if 0x61 ≤ x ∧ x ≤ 0x66 then (x - 0x57).setWidth 4
  else 0

/-- The byte a pair of characters decodes to, the high nibble first (40_codec.md R121, 20_memory.md R61). -/
def pair (h l : Byte) : Byte := ((hexval h).setWidth 8 <<< 4) ||| (hexval l).setWidth 8

/-- The list form of `pair` (40_codec.md R121); the block only gives it lists of even length. -/
def decodePairs : List Byte → List Byte
  | h :: l :: rest => pair h l :: decodePairs rest
  | _ => []

/-- The character of a nibble, upper case (40_codec.md R125). -/
def hexchar (n : Nibble) : Byte := if n ≤ 9 then 0x30 + n.setWidth 8 else 0x37 + n.setWidth 8

/-- The two characters of a byte, the high nibble first (40_codec.md R125). -/
def encodeByte (b : Byte) : List Byte := [hexchar (b.extractLsb' 4 4), hexchar (b.extractLsb' 0 4)]

end Sys2Proof.Machine
end

