-- ==== Sys2Proof/Machine/Ops.lean ====
section
/-! DEFINITION. The shared operations over the block's state: time, storage, the FIFOs, the selector, the ring, the end
of a command (00_scope.md R11), and the moves of the environment (R5). -/

namespace Sys2Proof.Machine

/-! ## Time -/

/-- `elapsed(a, b) = (a - b) mod 2^W` (00_scope.md R10). -/
abbrev elapsed (a b : Time) : Time := a - b

/-! ## Storage -/

/-- `MemRead(X, i, n)` (00_scope.md R11). -/
def memRead (x : List Byte) (i n : Nat) : List Byte := (x.drop i).take n

/-- `MemWrite(X, i, len(s), s)` (00_scope.md R11). The array keeps its length: there is no byte behind its end to write
(log entry 8). -/
def memWrite (x : List Byte) (i : Nat) (s : List Byte) : List Byte :=
  (x.take i ++ s ++ x.drop (i + s.length)).take x.length

/-! ## The sequencer -/

/-- The same command at another position; an idle sequencer stays idle. -/
def Phase.moveTo (p : Phase) (μ : Micro) : Phase :=
  match p with
  | .idle => .idle
  | .busy cmd _ => .busy cmd μ

/-- The running command goes on at `μ`. -/
def State.goto (s : State) (μ : Micro) : State := { s with phase := s.phase.moveTo μ }

/-- A statement outside the command's rule: the sequencer waits there for ever (a stuck state, log entry 8). -/
def State.stuck (s : State) (μ : Micro) : State := s.goto (.wait μ)

/-- `finish(st, data)`: RESULT gets the pair and PHASE becomes IDLE (00_scope.md R11, 10_state.md R37). -/
def State.finish (s : State) (st : Status) (data : List Byte) : State :=
  { s with
    phase := .idle
    result := some ⟨st, data⟩
    history := s.history ++ [.result ⟨st, data⟩] }

/-- `raise st`: how the block takes an error. The command ends with the status and no data; nothing is saved, no mode
changes, there is no handler and no return (00_scope.md R11, 60_exceptions.md R261). -/
def State.raise (s : State) (st : Status) : State := s.finish st []

/-- `CLEAR_PENDING()`, one action (10_state.md R26; log entry 4). -/
def State.clearPending (s : State) : State := { s with pendingId := 0, expectedLen := 0, matched := false }

/-- `LogEvent(kind, id)` (60_exceptions.md R273). -/
def State.logEvent (s : State) (kind : LogKind) (id : Byte) : State :=
  { s with history := s.history ++ [.log kind id] }

/-! ## The selector and the FIFOs -/

/-- `if DIR != d then DIR <- d`, with SEL following in the same micro-step (42_arbiter.md R160). -/
def State.steer (s : State) (d : Direction) : State :=
  if s.dir = d then s else { s with dir := d, history := s.history ++ [.sel d] }

/-- `RX_DISCARD()` (43_transport.md R181). -/
def State.rxDiscard (s : State) : State := { s with rx := [] }

/-- The append of `TxPush(b)` (20_memory.md R70). -/
def State.txAppend (s : State) (b : Byte) : State := { s with tx := s.tx ++ [b] }

/-- `len(TX) = TX_FIFO_DEPTH`, where `TxPush` waits (20_memory.md R70). -/
def State.txFull (s : State) : Bool := decide (s.build.txFifoDepth ≤ s.tx.length)

/-! ## The notification ring -/

/-- A slot after `FLEN <- len(f); MemWrite(FB, 0, len(f), f)` (41_ring.md R140). -/
def Slot.store (t : Slot) (f : List Byte) : Slot := ⟨f.length, memWrite t.fb 0 f⟩

/-- The frame a slot holds: `MemRead(FB, 0, FLEN)` (41_ring.md R141). -/
def Slot.frame (t : Slot) : List Byte := memRead t.fb 0 t.flen

/-- `SLOT[i]`. -/
def Ring.slot (r : Ring) (i : Nat) : Slot := r.slots.getD i ⟨0, []⟩

/-- The first half of RING_PUSH: a full ring of capacity `c` drops its oldest frame (41_ring.md R140). -/
def Ring.makeRoom (c : Nat) (r : Ring) : Ring :=
  if r.count = c then { r with rd := (r.rd + 1) % c, count := r.count - 1 } else r

/-- The second half of RING_PUSH: the frame goes to `SLOT[WR]` (41_ring.md R140). -/
def Ring.append (c : Nat) (r : Ring) (f : List Byte) : Ring :=
  { r with
    slots := r.slots.modify r.wr (fun t => t.store f)
    wr := (r.wr + 1) % c
    count := r.count + 1 }

/-- `RING_PUSH(f)` of a ring of capacity `c`, one micro-step (41_ring.md R140). -/
def Ring.push (c : Nat) (r : Ring) (f : List Byte) : Ring := (r.makeRoom c).append c f

/-- The ring after `RING_POP()`, which leaves the slot as it was; an empty ring stays as it is (41_ring.md R141). -/
def Ring.dropOldest (c : Nat) (r : Ring) : Ring :=
  if r.count = 0 then r else { r with rd := (r.rd + 1) % c, count := r.count - 1 }

/-- What `RING_POP()` returns: the oldest frame, or NONE (41_ring.md R141). -/
def Ring.oldest (r : Ring) : Option (List Byte) :=
  if r.count = 0 then none else some (r.slot r.rd).frame

/-- The frames the ring holds, oldest first: those that repeated pops return (41_ring.md R144). -/
def Ring.frames (c : Nat) (r : Ring) : List (List Byte) :=
  (List.range r.count).map (fun k => (r.slot ((r.rd + k) % c)).frame)

/-! ## The form of the storage -/

/-- The storage has its form (20_memory.md R60): RESP_BUF and the slots have their build's sizes (10_state.md R27, R32),
and neither FIFO holds more than its depth (R34, R35). -/
abbrev Memory.wf (s : State) : Prop :=
  s.respBuf.length = s.build.maxResponseLen ∧
  s.ring.slots.length = s.build.ringCapacity ∧
  (∀ t ∈ s.ring.slots, t.fb.length = s.build.maxOobPayload + 1) ∧
  s.rx.length ≤ s.build.rxFifoDepth ∧
  s.tx.length ≤ s.build.txFifoDepth

/-! ## The environment -/

/-- A line agent offers a byte: it enters RX if its side is selected and RX has room, and is lost otherwise
(20_memory.md R69). -/
def State.arrive (s : State) (side : Direction) (b : Byte) : State :=
  if side = s.dir ∧ s.rx.length < s.build.rxFifoDepth then { s with rx := s.rx ++ [b] } else s

/-- The TX serializer emits the head of TX on the side SEL shows; with TX empty it has no move (20_memory.md R70). -/
def State.emit (s : State) : State :=
  match s.tx with
  | [] => s
  | b :: rest => { s with tx := rest, history := s.history ++ [.wire s.dir b] }

/-- The clock advances, modulo 2^W (00_scope.md R5). -/
def State.tick (s : State) (ms : Time) : State := { s with now := s.now + ms }

/-- Reset asserts: the command in progress is aborted without a RESULT, every register takes its reset value, TX is lost,
and what was emitted stays emitted (70_reset_and_hazards.md R290, R291). NOW and the moves still to come are the
environment's (log entries 7 and 21). -/
def State.assertReset (s : State) : State :=
  { State.resetOf s.build with
    now := s.now
    history := s.history ++ (if s.dir = .toConsole then [] else [.sel .toConsole])
    inputs := s.inputs
    source := s.source
    rounds := s.rounds }

/-- The moves entered in `inputs` are used up: the environment's next ones are entered, if it makes more
(log entry 21). -/
def State.refill (s : State) : State :=
  match s.source with
  | .ends => s
  | .cycle moves => { s with inputs := moves }
  | .free => { s with inputs := Config.schedule s.rounds, rounds := s.rounds + 1 }

/-- The move of an environment agent. A host command and a micro-step are none: `step` and the sequencer make those. -/
def State.envMove (s : State) : Input → State
  | .command _ => s
  | .seq => s
  | .arrive side b => s.arrive side b
  | .emit => s.emit
  | .tick ms => s.tick ms
  | .reset => s.assertReset

end Sys2Proof.Machine
end

