-- ==== Sys2Proof/Machine/Routines.lean ====
section
/-! DEFINITION. The micro-steps of the internal operations, which every command shares: SWITCH, TxPush, finish
(42_arbiter.md R160, 20_memory.md R70, 00_scope.md R11), and RX_READ, SCAN_STEP, OOB_DECODE, PAYLOAD_READ
(43_transport.md R180-R184). One branch is one atomic micro-step, one statement of the pseudocode (00_scope.md R5, R11;
what a statement is, is log entry 3). -/

namespace Sys2Proof.Machine

/-- `SWITCH(d)` and then `next` (42_arbiter.md R160). -/
def switchTo (d : Direction) (next : Micro) : Micro := .flush d next

/-- `TxFlush()`: wait until TX is empty (20_memory.md R70). -/
def flushStep (d : Direction) (next : Micro) (s : State) : State :=
  if s.tx = [] then s.goto (.steer d next) else s.goto (.wait (.flush d next))

/-- `TxPush` of the bytes in order, waiting while TX is full (20_memory.md R70). -/
def pushStep (bytes : List Byte) (next : Micro) (s : State) : State :=
  match bytes with
  | [] => s.goto next
  | b :: rest =>
    if s.txFull then s.goto (.wait (.push (b :: rest) next)) else (s.txAppend b).goto (.push rest next)

/-- A micro-step of the operations that no receiving is part of: Wait, SWITCH, TxPush and finish. At a position of
another kind the sequencer is stuck. -/
def baseStep (μ : Micro) (s : State) : State :=
  match μ with
  | .wait back => s.goto back
  | .flush d next => flushStep d next s
  | .steer d next => (s.steer d).goto next
  | .push bytes next => pushStep bytes next s
  | .finish st data => s.finish st data
  | other => s.stuck other

/-- One pass of RX_READ's loop: take a byte, or return early once CHANNEL_READ_TIMEOUT_MS has elapsed since `t`, or wait
(43_transport.md R180). -/
def readStep (n : Nat) (t : Time) (got : List Byte) (k : Reader) (s : State) : State :=
  if got.length < n then
    match s.rx with
    | b :: rest => { s with rx := rest }.goto (.reading n t (got ++ [b]) k)
    | [] =>
      if s.build.channelReadTimeoutMs ≤ elapsed s.now t then s.goto (.readDone got k)
      else s.goto (.wait (.reading n t got k))
  else s.goto (.readDone got k)

/-- What PAYLOAD_READ and OOB_DECODE do with the bytes RX_READ returned (43_transport.md R183, R184). -/
def readDoneStep (got : List Byte) (k : Reader) (s : State) : State :=
  match k with
  | .payload n => if got.length = 2 * n then s.goto (.payloadStore (decodePairs got)) else s.goto .payloadDiscard
  | .oob c e =>
    if got.length < 2 * e then s.goto (.oobDiscard .shortOob c) else s.goto (.oobPush (c :: decodePairs got))

/-- SCAN_STEP's `h <- RxPop(); l <- RxPop()`, one micro-step (43_transport.md R182). Its precondition is two bytes in
RX; without them the sequencer is stuck (log entry 8). -/
def scanPopStep (s : State) : State :=
  match s.rx with
  | h :: l :: rest => { s with rx := rest }.goto (.scanDecode ⟨h, l⟩)
  | _ => s.stuck .scanPop

/-- OOB_DECODE's `if e == UNKNOWN`: the discard, or the reading of `2*e` characters (43_transport.md R183). -/
def oobKnownStep (c : Byte) (e : Option Nat) (s : State) : State :=
  match e with
  | none => s.goto (.oobDiscard .unknownOob c)
  | some e => s.goto (.readStart (2 * e) (.oob c e))

/-- A micro-step of RX_READ, of PAYLOAD_READ and of the statements that close a receiving command, or of those under
`baseStep` (43_transport.md R180, R184, R187). -/
def payloadStep (μ : Micro) (s : State) : State :=
  match μ with
  | .readStart n k => s.goto (.readInit n s.now k)
  | .readInit n t k => s.goto (.reading n t [] k)
  | .reading n t got k => readStep n t got k s
  | .readDone got k => readDoneStep got k s
  | .payloadLen => s.goto (.readStart (2 * (s.expectedLen.toNat - 1)) (.payload (s.expectedLen.toNat - 1)))
  | .payloadStore bytes => { s with respBuf := memWrite s.respBuf 1 bytes }.goto (.scanned .correlated)
  | .payloadDiscard => s.rxDiscard.goto (.scanned .tooShort)
  | .release st data =>
    if s.release then s.goto (switchTo .toConsole (.finish st data)) else s.goto (.finish st data)
  | .clear st data => s.clearPending.goto (.release st data)
  | other => baseStep other s

/-- A micro-step of SCAN_STEP and OOB_DECODE, or of those under `payloadStep` (43_transport.md R182, R183). -/
def receiveStep (μ : Micro) (s : State) : State :=
  match μ with
  | .scanPop => scanPopStep s
  | .scanDecode p => s.goto (.scanMatch (pair p.h p.l))
  | .scanMatch c => if s.pendingId ≠ 0 ∧ c = s.pendingId then s.goto (.scanStore c) else s.goto (.oobLookup c)
  | .scanStore c => { s with respBuf := memWrite s.respBuf 0 [c] }.goto .scanProbe
  | .scanProbe => if s.expectedLen = 0 then s.goto .scanLatch else s.goto .payloadLen
  | .scanLatch => { s with matched := true }.goto (.scanned .probeHit)
  | .oobLookup c => s.goto (.oobKnown c (s.build.oobLen c))
  | .oobKnown c e => oobKnownStep c e s
  | .oobDiscard kind c => s.rxDiscard.goto (.oobLog kind c)
  | .oobLog kind c => (s.logEvent kind c).goto (.scanned .oob)
  | .oobPush f => { s with ring := s.ring.push s.build.ringCapacity f }.goto (.scanned .oob)
  | other => payloadStep other s

end Sys2Proof.Machine
end

