-- ==== Sys2Proof/Machine/Run.lean ====
section
/-! DEFINITION. How a command runs: its micro-steps, interleaved with the moves of the environment (00_scope.md R5,
10_state.md R36; log entries 1, 2 and 21). `micro` is the command's own micro-step function. -/

namespace Sys2Proof.Machine

/-- The sequencer rests: it is idle, or at a `Wait()`, "the place where a blocking loop lets the environment step"
(00_scope.md R11). -/
def State.resting (s : State) : Bool :=
  match s.phase with
  | .idle => true
  | .busy _ (.wait _) => true
  | .busy _ _ => false

/-- One micro-step of the sequencer; an idle one has none. -/
def seqStepWith (micro : Micro → State → State) (s : State) : State :=
  match s.phase with
  | .idle => s
  | .busy _ μ => micro μ s

/-- The micro-steps after a read, until the sequencer rests. -/
def Reader.rank : Reader → Nat
  | .payload _ => 11
  | .oob _ _ => 23

/-- How many micro-steps the position can still take before the sequencer rests, with nothing in RX. `n` is the length
of the command's list operand. -/
def Micro.rank (n : Nat) : Micro → Nat
  | .start => 22 + n
  | .wait back => back.rank n + 1
  | .flush _ next => next.rank n + 2
  | .steer _ next => next.rank n + 1
  | .push bytes next => next.rank n + bytes.length + 1
  | .finish _ _ => 1
  | .release _ _ => 4
  | .clear _ _ => 5
  | .readStart _ k => k.rank + 3
  | .readInit _ _ k => k.rank + 2
  | .reading _ _ _ k => k.rank + 1
  | .readDone _ k => k.rank
  | .scanPop => 1
  | .scanDecode _ => 30
  | .scanMatch _ => 29
  | .scanStore _ => 23
  | .scanProbe => 22
  | .scanLatch => 21
  | .oobLookup _ => 28
  | .oobKnown _ _ => 27
  | .oobDiscard _ _ => 22
  | .oobLog _ _ => 21
  | .oobPush _ => 21
  | .payloadLen => 15
  | .payloadStore _ => 10
  | .payloadDiscard => 10
  | .scanned .correlated => 9
  | .scanned .tooShort => 9
  | .scanned .none => 9
  | .scanned .probeHit => 20
  | .scanned .oob => 20
  | .connect => 2
  | .sendBusy => 12 + n
  | .sendParam => 11 + n
  | .spacing => 8 + n
  | .setPending => 7 + n
  | .clearLen => 6 + n
  | .clearMatched => 5 + n
  | .stampTime => 3
  | .stampValid => 2
  | .respPending => 21
  | .respCap => 20
  | .respLen => 17
  | .respLoop => 16
  | .respCollect => 6
  | .respShort .none => 8
  | .respShort .tooShort => 8
  | .respShort .correlated => 19
  | .respShort .probeHit => 19
  | .respShort .oob => 19
  | .respDeadline .none => 7
  | .respDeadline .correlated => 18
  | .respDeadline .tooShort => 18
  | .respDeadline .probeHit => 18
  | .respDeadline .oob => 18
  | .respYield .none => 6
  | .respYield .correlated => 17
  | .respYield .tooShort => 17
  | .respYield .probeHit => 17
  | .respYield .oob => 17
  | .popMatched => 9
  | .popLoop => 7
  | .popRing => 6
  | .popped _ => 5
  | .cfgLoad => 2

/-- An upper bound of the micro-steps the sequencer can take, alone, before it rests: each byte of RX lets it take at
most 16 more. -/
def State.fuel (s : State) : Nat :=
  match s.phase with
  | .idle => 1
  | .busy cmd μ => μ.rank cmd.listOperand.length + 16 * s.rx.length + 1

/-- The sequencer runs alone, at most `k` micro-steps, until it rests. -/
def runQuiet (micro : Micro → State → State) : Nat → State → State
  | 0, s => s
  | k + 1, s => if (seqStepWith micro s).resting then seqStepWith micro s else runQuiet micro k (seqStepWith micro s)

/-- The command in progress runs on the moves of `inputs`, one after the other, until it has ended; the moves it did not
need stay in State. Where the moves end for good, or the next one is the host's (who waits for IDLE, 10_state.md R36),
nobody but the sequencer moves, and it runs until it rests (log entry 2). Where the environment makes more moves, they are
entered, and the run stands at this micro-step boundary, for the next step to go on from: so a command that never ends is
an unending run of steps (70_reset_and_hazards.md R303; log entry 21). -/
def runInputs (micro : Micro → State → State) : List Input → State → State
  | [], s =>
    match s.source with
    | .ends => runQuiet micro s.fuel { s with inputs := [] }
    | .cycle _ => s.refill
    | .free => s.refill
  | e :: es, s =>
    if s.phase = .idle then { s with inputs := e :: es }
    else
      match e with
      | .command bytes => runQuiet micro s.fuel { s with inputs := .command bytes :: es }
      | .seq => runInputs micro es (seqStepWith micro s)
      | .arrive side b => runInputs micro es (s.arrive side b)
      | .emit => runInputs micro es s.emit
      | .tick ms => runInputs micro es (s.tick ms)
      | .reset => runInputs micro es s.assertReset

/-- A command's meaning, given its micro-steps: from IDLE it is issued and runs (10_state.md R36); if it is the one in
progress it goes on; while another is in progress the spec has no such move (60_exceptions.md R275; log entry 9). -/
def runCommand (cmd : Instr) (micro : Micro → State → State) (s : State) : Host.Outcome State Fault Refusal :=
  match s.phase with
  | .idle => .next (runInputs micro s.inputs { s with phase := .busy cmd .start })
  | .busy inProgress _ =>
    if inProgress = cmd then .next (runInputs micro s.inputs s) else .refused .commandWhileBusy

end Sys2Proof.Machine
end

