-- ==== Sys2Proof/Machine/Arbiter.lean ====
section
/-! DEFINITION. BusArbiter's commands: BUS_DEV, BUS_CON, BUS_DIR, CON_WRITE (42_arbiter.md R161-R164). -/

namespace Sys2Proof.Machine

/-- BUS_DEV's micro-steps (42_arbiter.md R161). -/
def microBusDev (μ : Micro) (s : State) : State :=
  match μ with
  | .start => s.goto (switchTo .toDevice (.finish .ok []))
  | other => baseStep other s

/-- BUS_DEV (42_arbiter.md R161). -/
def execBusDev (s : State) : Host.Outcome State Fault Refusal := runCommand .busDev microBusDev s

/-- BUS_CON's micro-steps (42_arbiter.md R162). -/
def microBusCon (μ : Micro) (s : State) : State :=
  match μ with
  | .start => s.goto (switchTo .toConsole (.finish .ok []))
  | other => baseStep other s

/-- BUS_CON (42_arbiter.md R162). -/
def execBusCon (s : State) : Host.Outcome State Fault Refusal := runCommand .busCon microBusCon s

/-- BUS_DIR's micro-steps (42_arbiter.md R163). -/
def microBusDir (μ : Micro) (s : State) : State :=
  match μ with
  | .start => s.finish .ok [s.dir.toByte]
  | other => baseStep other s

/-- BUS_DIR (42_arbiter.md R163). -/
def execBusDir (s : State) : Host.Outcome State Fault Refusal := runCommand .busDir microBusDir s

/-- CON_WRITE's micro-steps (42_arbiter.md R164). -/
def microConWrite (bytes : List Byte) (μ : Micro) (s : State) : State :=
  match μ with
  | .start => s.goto (switchTo .toConsole (.push bytes (.finish .ok [])))
  | other => baseStep other s

/-- CON_WRITE (42_arbiter.md R164). -/
def execConWrite (bytes : List Byte) (s : State) : Host.Outcome State Fault Refusal :=
  runCommand (.conWrite bytes) (microConWrite bytes) s

end Sys2Proof.Machine
end

