-- ==== Sys2Proof/Machine/Codec.lean ====
section
/-! DEFINITION. FrameCodec's commands: DEC_NIBBLE, DEC_BYTE, ENC_BYTE (40_codec.md R120, R122, R124). -/

namespace Sys2Proof.Machine

/-- DEC_NIBBLE's micro-steps (40_codec.md R120). -/
def microDecNibble (ch : Byte) (μ : Micro) (s : State) : State :=
  match μ with
  | .start => s.finish .ok [(hexval ch).setWidth 8]
  | other => baseStep other s

/-- DEC_NIBBLE (40_codec.md R120). -/
def execDecNibble (ch : Byte) (s : State) : Host.Outcome State Fault Refusal :=
  runCommand (.decNibble ch) (microDecNibble ch) s

/-- DEC_BYTE's micro-steps (40_codec.md R122). -/
def microDecByte (hi lo : Byte) (μ : Micro) (s : State) : State :=
  match μ with
  | .start => s.finish .ok [pair hi lo]
  | other => baseStep other s

/-- DEC_BYTE (40_codec.md R122). -/
def execDecByte (hi lo : Byte) (s : State) : Host.Outcome State Fault Refusal :=
  runCommand (.decByte hi lo) (microDecByte hi lo) s

/-- ENC_BYTE's micro-steps (40_codec.md R124). -/
def microEncByte (b : Byte) (μ : Micro) (s : State) : State :=
  match μ with
  | .start => s.finish .ok (encodeByte b)
  | other => baseStep other s

/-- ENC_BYTE (40_codec.md R124). -/
def execEncByte (b : Byte) (s : State) : Host.Outcome State Fault Refusal :=
  runCommand (.encByte b) (microEncByte b) s

end Sys2Proof.Machine
end

