-- ==== Sys2Proof/WellFormed.lean ====
section
/-! DEFINITION. Which commands have a serialization (30_encoding.md R98): a list operand fits its count field. -/

namespace Sys2Proof

/-- The largest list a command can carry: 65535 bytes for format FW, 255 for FS and FR (30_encoding.md R98). -/
def Instr.listLimit : Instr → Nat
  | .conWrite _ => 65535
  | .sessionInit _ => 255
  | .sendReq _ _ => 255
  | .decNibble _ | .decByte _ _ | .encByte _ | .busDev | .busCon | .busDir | .getResp _ | .popNotif | .ringAvail
  | .cfgRead _ | .cfgWrite _ _ => 0

/-- The command has a serialization: its list operand's length fits the count field of its format. -/
def Instr.wellFormed (i : Instr) : Bool := decide (i.listOperand.length ≤ i.listLimit)

end Sys2Proof
end

