-- ==== Sys2Proof/Decode.lean ====
section
/-! DEFINITION. The canonical serialization of the host commands, read and written (30_encoding.md R98-R104). -/

namespace Sys2Proof

/-- Why a byte string is not one command. -/
inductive DecodeError where
  /-- The opcode is none of 30_encoding.md R101 (R102). -/
  | illegalOpcode (op : Byte)
  /-- The string ends before the command does; R98 has no truncated command. -/
  | truncated
  /-- Bytes follow the command; R98 has one record for one command. -/
  | trailing
  deriving DecidableEq, Repr

/-! ## Field readers and writers -/

/-- A 16-bit field, most significant byte first (30_encoding.md R99). -/
def be16 (hi lo : Byte) : BitVec 16 := hi ++ lo

/-- The two bytes of a 16-bit field, most significant first (30_encoding.md R99). -/
def be16Bytes (v : BitVec 16) : List Byte := [v.extractLsb' 8 8, v.extractLsb' 0 8]

/-- A 32-bit field, most significant byte first (30_encoding.md R99). -/
def be32 (b3 b2 b1 b0 : Byte) : BitVec 32 := b3 ++ b2 ++ b1 ++ b0

/-- The four bytes of a 32-bit field, most significant first (30_encoding.md R99, R100). -/
def be32Bytes (v : BitVec 32) : List Byte :=
  [v.extractLsb' 24 8, v.extractLsb' 16 8, v.extractLsb' 8 8, v.extractLsb' 0 8]

/-- The first `n` bytes and what follows them; `none` when there are fewer. -/
def takeExact : Nat → List Byte → Option (List Byte × List Byte)
  | 0, bs => some ([], bs)
  | _ + 1, [] => none
  | n + 1, b :: bs => (takeExact n bs).map (fun p => (b :: p.1, p.2))

/-- A command and the bytes behind it, or why there is none. -/
abbrev Decoded := Except DecodeError (Instr × List Byte)

/-- Formats F0 (30_encoding.md R98): no operand. -/
def readF0 (i : Instr) (bs : List Byte) : Decoded := .ok (i, bs)

/-- Format F1: one byte. -/
def readF1 (mk : Byte → Instr) : List Byte → Decoded
  | a :: bs => .ok (mk a, bs)
  | [] => .error .truncated

/-- Format F2: two bytes. -/
def readF2 (mk : Byte → Byte → Instr) : List Byte → Decoded
  | a :: b :: bs => .ok (mk a b, bs)
  | _ => .error .truncated

/-- `n` bytes of a list operand. -/
def readList (mk : List Byte → Instr) (n : Nat) (bs : List Byte) : Decoded :=
  match takeExact n bs with
  | some (d, rest) => .ok (mk d, rest)
  | none => .error .truncated

/-- Format FS: an 8-bit count and that many bytes. -/
def readFS (mk : List Byte → Instr) : List Byte → Decoded
  | n :: bs => readList mk n.toNat bs
  | [] => .error .truncated

/-- Format FR: flags, an 8-bit count and that many bytes. -/
def readFR (mk : Byte → List Byte → Instr) : List Byte → Decoded
  | flags :: n :: bs => readList (mk flags) n.toNat bs
  | _ => .error .truncated

/-- Format FW: a 16-bit count and that many bytes. -/
def readFW (mk : List Byte → Instr) : List Byte → Decoded
  | n1 :: n0 :: bs => readList mk (be16 n1 n0).toNat bs
  | _ => .error .truncated

/-- Formats FC and FI: one 16-bit field. -/
def readF16 (mk : BitVec 16 → Instr) : List Byte → Decoded
  | b1 :: b0 :: bs => .ok (mk (be16 b1 b0), bs)
  | _ => .error .truncated

/-- Format FIV: a 16-bit index and a 32-bit value. -/
def readFIV (mk : CfgIndex → CfgWord → Instr) : List Byte → Decoded
  | i1 :: i0 :: v3 :: v2 :: v1 :: v0 :: bs => .ok (mk (be16 i1 i0) (be32 v3 v2 v1 v0), bs)
  | _ => .error .truncated

/-! ## The decoder -/

/-- The command at the head of a byte string and the bytes behind it (30_encoding.md R98, R101, R104). An opcode that
R101 does not list is illegal whatever follows it (R102, 60_exceptions.md R263). -/
def decodeHead : List Byte → Decoded
  | [] => .error .truncated
  | op :: bs =>
    match op.toNat with
    | 0x01 => readF1 .decNibble bs
    | 0x02 => readF2 .decByte bs
    | 0x03 => readF1 .encByte bs
    | 0x10 => readF0 .busDev bs
    | 0x11 => readF0 .busCon bs
    | 0x12 => readF0 .busDir bs
    | 0x13 => readFW .conWrite bs
    | 0x20 => readFS .sessionInit bs
    | 0x21 => readFR .sendReq bs
    | 0x22 => readF16 .getResp bs
    | 0x23 => readF0 .popNotif bs
    | 0x24 => readF0 .ringAvail bs
    | 0x30 => readF16 .cfgRead bs
    | 0x31 => readFIV .cfgWrite bs
    | _ => .error (.illegalOpcode op)

/-- The command a host's record stands for: the whole record is one command (30_encoding.md R98). -/
def decode (bs : List Byte) : Except DecodeError Instr :=
  match decodeHead bs with
  | .ok (i, []) => .ok i
  | .ok (_, _ :: _) => .error .trailing
  | .error e => .error e

/-! ## The encoder -/

/-- The opcode of a command (30_encoding.md R101). -/
def Instr.opcode : Instr → Byte
  | .decNibble _ => 0x01
  | .decByte _ _ => 0x02
  | .encByte _ => 0x03
  | .busDev => 0x10
  | .busCon => 0x11
  | .busDir => 0x12
  | .conWrite _ => 0x13
  | .sessionInit _ => 0x20
  | .sendReq _ _ => 0x21
  | .getResp _ => 0x22
  | .popNotif => 0x23
  | .ringAvail => 0x24
  | .cfgRead _ => 0x30
  | .cfgWrite _ _ => 0x31

/-- The operand bytes of a command (30_encoding.md R98, R99). -/
def Instr.operandBytes : Instr → List Byte
  | .decNibble ch => [ch]
  | .decByte hi lo => [hi, lo]
  | .encByte b => [b]
  | .busDev => []
  | .busCon => []
  | .busDir => []
  | .conWrite bytes => be16Bytes (BitVec.ofNat 16 bytes.length) ++ bytes
  | .sessionInit bytes => BitVec.ofNat 8 bytes.length :: bytes
  | .sendReq flags bytes => flags :: BitVec.ofNat 8 bytes.length :: bytes
  | .getResp cap => be16Bytes cap
  | .popNotif => []
  | .ringAvail => []
  | .cfgRead idx => be16Bytes idx
  | .cfgWrite idx v => be16Bytes idx ++ be32Bytes v

/-- The canonical serialization of a command (30_encoding.md R98). -/
def encode (i : Instr) : List Byte := i.opcode :: i.operandBytes

/-- How many bytes the command at the head of a byte string takes, found from the opcode and, for FS, FR and FW, the
count field (30_encoding.md R104); `none` for an illegal opcode, or where the string ends before its count field. -/
def recordLength : List Byte → Option Nat
  | [] => none
  | op :: bs =>
    match op.toNat with
    | 0x01 | 0x03 => some 2
    | 0x02 => some 3
    | 0x10 | 0x11 | 0x12 | 0x23 | 0x24 => some 1
    | 0x13 =>
      match bs with
      | n1 :: n0 :: _ => some (3 + (be16 n1 n0).toNat)
      | _ => none
    | 0x20 =>
      match bs with
      | n :: _ => some (2 + n.toNat)
      | _ => none
    | 0x21 =>
      match bs with
      | _ :: n :: _ => some (3 + n.toNat)
      | _ => none
    | 0x22 | 0x30 => some 3
    | 0x31 => some 7
    | _ => none

/-! ## The host's view: an instruction as a number -/

/-- The longest command: format FW with 65535 bytes (30_encoding.md R98). -/
def longestRecord : Nat := 65538

/-- Bits `8k+7 .. 8k` of `w`: byte `k` of the record, as spec/opcode_table.json numbers the bits. -/
def byteOfWord (w k : Nat) : Byte := BitVec.ofNat 8 (w / 2 ^ (8 * k))

/-- The bytes of an instruction whose first `nbits` bits are those of `w` and whose other bits are 0, up to the longest
command. -/
def bytesOfWord (nbits w : Nat) : List Byte :=
  (List.range ((nbits + 7) / 8)).map (byteOfWord (w % 2 ^ nbits)) ++ List.replicate longestRecord 0

/-- The instruction the decoder reads from an instruction whose bits are `w` (bit 0 the least significant bit of the
first byte), `none` where it refuses. -/
def decodeTableWord (nbits w : Nat) : Option Instr :=
  match decodeHead (bytesOfWord nbits w) with
  | .ok (i, _) => some i
  | .error _ => none

/-- The record a host sends for that instruction: as many bytes as the command has (R104); for an illegal opcode the
table's `nbits` alone. -/
def recordOfWord (nbits w : Nat) : List Byte :=
  match recordLength (bytesOfWord nbits w) with
  | some n => (bytesOfWord nbits w).take n
  | none => (bytesOfWord nbits w).take ((nbits + 7) / 8)

end Sys2Proof
end

