-- ==== Sys2Proof/Machine/Flags.lean ====
section
/-! DEFINITION. The words of the configuration space: STATUS, CTRL, OOB_LEN and the parameter registers
(44_control.md R241-R246). -/

namespace Sys2Proof.Machine

/-- One bit of a word. -/
def flagBit (b : Bool) (k : Nat) : CfgWord := if b then 1#32 <<< k else 0

/-- STATUS, computed at the read (44_control.md R241). -/
def State.statusWord (s : State) : CfgWord :=
  flagBit s.connected 0 ||| flagBit (decide (s.pendingId ≠ 0)) 1 ||| flagBit s.matched 2
    ||| flagBit (decide (s.dir = .toDevice)) 3 ||| flagBit s.lastSendValid 4
    ||| (s.pendingId.setWidth 32 <<< 8) ||| ((countByte s.ring.count).setWidth 32 <<< 16)

/-- CTRL: bit 0 is RELEASE, bits 31:1 read 0 (44_control.md R244). -/
def State.ctrlWord (s : State) : CfgWord := flagBit s.release 0

/-- OOB_LEN[c]: bit 8 is KNOWN, bits 7:0 are LEN (44_control.md R246). -/
def oobLenWord (b : Build) (c : Byte) : CfgWord :=
  match b.oobLen c with
  | none => 0
  | some e => 0x100#32 ||| (countByte e).setWidth 32

/-- The value CFG_READ reads from a register (44_control.md R240-R246). -/
def State.cfgValue (s : State) : CfgReg → CfgWord
  | .status => s.statusWord
  | .respTimeoutMs => s.respTimeoutMs
  | .reqDelayMs => s.reqDelayMs
  | .ctrl => s.ctrlWord
  | .ringCapacity => BitVec.ofNat 32 s.build.ringCapacity
  | .maxResponseLen => BitVec.ofNat 32 s.build.maxResponseLen
  | .maxRequestLen => BitVec.ofNat 32 s.build.maxRequestLen
  | .maxOobPayload => BitVec.ofNat 32 s.build.maxOobPayload
  | .channelReadTimeoutMs => s.build.channelReadTimeoutMs
  | .oobLen c => oobLenWord s.build c

/-- CFG_WRITE of a register: the three writable ones take the value, every other one none (44_control.md R248). -/
def State.cfgStore (s : State) (r : CfgReg) (v : CfgWord) : Option State :=
  match r with
  | .respTimeoutMs => some { s with respTimeoutMs := v }
  | .reqDelayMs => some { s with reqDelayMs := v }
  | .ctrl => some { s with release := v.getLsbD 0 }
  | .status | .ringCapacity | .maxResponseLen | .maxRequestLen | .maxOobPayload | .channelReadTimeoutMs
  | .oobLen _ => none

end Sys2Proof.Machine
end

