-- ==== Sys2Proof/Machine/Control.lean ====
section
/-! DEFINITION. The configuration commands: CFG_READ, CFG_WRITE (44_control.md R247, R248). -/

namespace Sys2Proof.Machine

/-- CFG_READ's first statement: Param for an unassigned index (44_control.md R247). -/
def cfgReadStep (idx : CfgIndex) (s : State) : State :=
  match cfgReg idx with
  | none => s.raise .param
  | some _ => s.goto .cfgLoad

/-- CFG_READ's second statement: the register's word, for `finish` (44_control.md R247). An unassigned index does not come
here (log entry 8). -/
def cfgLoadStep (idx : CfgIndex) (s : State) : State :=
  match cfgReg idx with
  | none => s.stuck .cfgLoad
  | some r => s.goto (.finish .ok (be32Bytes (s.cfgValue r)))

/-- CFG_READ's micro-steps (44_control.md R247). -/
def microCfgRead (idx : CfgIndex) (μ : Micro) (s : State) : State :=
  match μ with
  | .start => cfgReadStep idx s
  | .cfgLoad => cfgLoadStep idx s
  | other => baseStep other s

/-- CFG_READ (44_control.md R247). -/
def execCfgRead (idx : CfgIndex) (s : State) : Host.Outcome State Fault Refusal :=
  runCommand (.cfgRead idx) (microCfgRead idx) s

/-- CFG_WRITE's first statement: Param for an unassigned or read-only index, else the write, which takes effect in this
micro-step; `finish` is the next one (44_control.md R248, R249, 00_scope.md R11). -/
def cfgWriteStep (idx : CfgIndex) (v : CfgWord) (s : State) : State :=
  match (cfgReg idx).bind (fun r => s.cfgStore r v) with
  | none => s.raise .param
  | some written => written.goto (.finish .ok [])

/-- CFG_WRITE's micro-steps (44_control.md R248). -/
def microCfgWrite (idx : CfgIndex) (v : CfgWord) (μ : Micro) (s : State) : State :=
  match μ with
  | .start => cfgWriteStep idx v s
  | other => baseStep other s

/-- CFG_WRITE (44_control.md R248). -/
def execCfgWrite (idx : CfgIndex) (v : CfgWord) (s : State) : Host.Outcome State Fault Refusal :=
  runCommand (.cfgWrite idx v) (microCfgWrite idx v) s

end Sys2Proof.Machine
end

