-- ==== Sys2Proof/Machine/Notification.lean ====
section
/-! DEFINITION. The commands that read the notification ring: RING_AVAIL (41_ring.md R142) and POP_NOTIF
(43_transport.md R188). -/

namespace Sys2Proof.Machine

/-- RING_AVAIL's micro-steps (41_ring.md R142). -/
def microRingAvail (μ : Micro) (s : State) : State :=
  match μ with
  | .start => s.finish .ok [countByte s.ring.count]
  | other => baseStep other s

/-- RING_AVAIL (41_ring.md R142). -/
def execRingAvail (s : State) : Host.Outcome State Fault Refusal := runCommand .ringAvail microRingAvail s

/-- POP_NOTIF's `f <- RING_POP()` (43_transport.md R188, 41_ring.md R141). -/
def popRingStep (s : State) : State :=
  { s with ring := s.ring.dropOldest s.build.ringCapacity }.goto (.popped s.ring.oldest)

/-- POP_NOTIF's `if f == NONE`: the status, and the frame behind its length (43_transport.md R188). -/
def poppedStep (f : Option (List Byte)) (s : State) : State :=
  match f with
  | none => s.goto (.release .empty [])
  | some f => s.goto (.release .ok (countByte f.length :: f))

/-- POP_NOTIF's micro-steps (43_transport.md R188). -/
def microPopNotif (μ : Micro) (s : State) : State :=
  match μ with
  | .start =>
    if s.connected then s.goto (switchTo .toDevice .popMatched) else s.goto (.release .notConnected [])
  | .popMatched => if s.matched then s.goto .popRing else s.goto .popLoop
  | .popLoop => if 2 ≤ s.rx.length then s.goto .scanPop else s.goto .popRing
  | .scanned r => if r = .probeHit then s.goto .popRing else s.goto .popLoop
  | .popRing => popRingStep s
  | .popped f => poppedStep f s
  | other => receiveStep other s

/-- POP_NOTIF (43_transport.md R188). -/
def execPopNotif (s : State) : Host.Outcome State Fault Refusal := runCommand .popNotif microPopNotif s

end Sys2Proof.Machine
end

