-- ==== Sys2Proof/Machine/Transport.lean ====
section
/-! DEFINITION. Transport's request and response commands: SESSION_INIT, SEND_REQ, GET_RESP
(43_transport.md R185-R187). -/

namespace Sys2Proof.Machine

/-- SESSION_INIT's micro-steps (43_transport.md R185). -/
def microSessionInit (bytes : List Byte) (μ : Micro) (s : State) : State :=
  match μ with
  | .start => s.goto (switchTo .toDevice (.push bytes .connect))
  | .connect => { s with connected := true }.goto (.finish .ok [])
  | other => baseStep other s

/-- SESSION_INIT (43_transport.md R185). -/
def execSessionInit (bytes : List Byte) (s : State) : Host.Outcome State Fault Refusal :=
  runCommand (.sessionInit bytes) (microSessionInit bytes) s

/-- One test of SEND_REQ's spacing loop: too little time since the last request (43_transport.md R186). -/
def State.mustSpace (s : State) : Bool :=
  s.lastSendValid && decide (elapsed s.now s.lastSend < s.reqDelayMs)

/-- SEND_REQ's micro-steps (43_transport.md R186). -/
def microSendReq (flags : Byte) (bytes : List Byte) (μ : Micro) (s : State) : State :=
  match μ with
  | .start => if s.connected then s.goto .sendBusy else s.raise .notConnected
  | .sendBusy => if s.pendingId ≠ 0 then s.raise .busy else s.goto .sendParam
  | .sendParam => if badRequest s.build flags bytes then s.raise .param else s.goto (switchTo .toDevice .spacing)
  | .spacing => if s.mustSpace then s.goto (.wait .spacing) else s.goto .setPending
  | .setPending => { s with pendingId := requestId flags bytes }.goto .clearLen
  | .clearLen => { s with expectedLen := 0 }.goto .clearMatched
  | .clearMatched => { s with matched := false }.goto (.push bytes .stampTime)
  | .stampTime => { s with lastSend := s.now }.goto .stampValid
  | .stampValid => { s with lastSendValid := true }.goto (.finish .ok [])
  | other => baseStep other s

/-- SEND_REQ (43_transport.md R186). -/
def execSendReq (flags : Byte) (bytes : List Byte) (s : State) : Host.Outcome State Fault Refusal :=
  runCommand (.sendReq flags bytes) (microSendReq flags bytes) s

/-- GET_RESP's result data: `[EXPECTED_LEN] ++ MemRead(RESP_BUF, 0, EXPECTED_LEN)` (43_transport.md R187). -/
def State.responseData (s : State) : List Byte :=
  s.expectedLen :: memRead s.respBuf 0 s.expectedLen.toNat

/-- GET_RESP's timeout test (43_transport.md R187). -/
def State.responseDue (s : State) : Bool := decide (s.respTimeoutMs ≤ elapsed s.now s.getT0)

/-- GET_RESP's micro-steps (43_transport.md R187). -/
def microGetResp (cap : BitVec 16) (μ : Micro) (s : State) : State :=
  match μ with
  | .start => { s with getT0 := s.now }.goto .respPending
  | .respPending => if s.pendingId = 0 then s.goto (.release .noRequest []) else s.goto .respCap
  | .respCap => if badCapacity s.build cap then s.goto (.release .param []) else s.goto (switchTo .toDevice .respLen)
  | .respLen => { s with expectedLen := capByte cap }.goto .respLoop
  | .respLoop =>
    if s.matched then s.goto .payloadLen
    else if 2 ≤ s.rx.length then s.goto .scanPop
    else s.goto (.scanned .none)
  | .scanned r => if r = .correlated then s.goto .respCollect else s.goto (.respShort r)
  | .respCollect => s.goto (.clear .ok s.responseData)
  | .respShort r => if r = .tooShort then s.goto (.clear .responseTooShort []) else s.goto (.respDeadline r)
  | .respDeadline r => if s.responseDue then s.goto (.clear .timeout []) else s.goto (.respYield r)
  | .respYield r => if r = .none then s.goto (.wait .respLoop) else s.goto .respLoop
  | other => receiveStep other s

/-- GET_RESP (43_transport.md R187). -/
def execGetResp (cap : BitVec 16) (s : State) : Host.Outcome State Fault Refusal :=
  runCommand (.getResp cap) (microGetResp cap) s

end Sys2Proof.Machine
end

