-- ==== Sys2Proof/Machine/Sequencer.lean ====
section
/-! DEFINITION. One micro-step of the block, whichever command is in progress (10_state.md R36), and one move of any
agent (00_scope.md R5). The meanings in exec run their own micro-steps; a claim about every micro-step boundary is
stated of these. -/

namespace Sys2Proof.Machine

/-- The micro-step function of a command. -/
def microOf : Instr → Micro → State → State
  | .decNibble ch => microDecNibble ch
  | .decByte hi lo => microDecByte hi lo
  | .encByte b => microEncByte b
  | .busDev => microBusDev
  | .busCon => microBusCon
  | .busDir => microBusDir
  | .conWrite bytes => microConWrite bytes
  | .sessionInit bytes => microSessionInit bytes
  | .sendReq flags bytes => microSendReq flags bytes
  | .getResp cap => microGetResp cap
  | .popNotif => microPopNotif
  | .ringAvail => microRingAvail
  | .cfgRead idx => microCfgRead idx
  | .cfgWrite idx v => microCfgWrite idx v

/-- One micro-step of the command in progress. -/
def seqStep (s : State) : State :=
  match s.phase with
  | .idle => s
  | .busy cmd μ => microOf cmd μ s

/-- One move of any agent but the host (00_scope.md R5): the environment's, or the sequencer's. -/
def State.move (s : State) (e : Input) : State :=
  match e with
  | .seq => seqStep s
  | .command _ => s
  | .arrive side b => s.arrive side b
  | .emit => s.emit
  | .tick ms => s.tick ms
  | .reset => s.assertReset

end Sys2Proof.Machine
end

