-- ==== Sys2Proof/Machine/Dispatch.lean ====
section
/-! DEFINITION. The meaning of each host command: one arm per constructor of Instr. -/

namespace Sys2Proof.Machine

def exec (i : Instr) (s : State) : Host.Outcome State Fault Refusal :=
  match i with
  | .decNibble ch => Sys2Proof.Machine.execDecNibble ch s
  | .decByte hi lo => Sys2Proof.Machine.execDecByte hi lo s
  | .encByte b => Sys2Proof.Machine.execEncByte b s
  | .busDev => Sys2Proof.Machine.execBusDev s
  | .busCon => Sys2Proof.Machine.execBusCon s
  | .busDir => Sys2Proof.Machine.execBusDir s
  | .conWrite bytes => Sys2Proof.Machine.execConWrite bytes s
  | .sessionInit bytes => Sys2Proof.Machine.execSessionInit bytes s
  | .sendReq flags bytes => Sys2Proof.Machine.execSendReq flags bytes s
  | .getResp cap => Sys2Proof.Machine.execGetResp cap s
  | .popNotif => Sys2Proof.Machine.execPopNotif s
  | .ringAvail => Sys2Proof.Machine.execRingAvail s
  | .cfgRead idx => Sys2Proof.Machine.execCfgRead idx s
  | .cfgWrite idx v => Sys2Proof.Machine.execCfgWrite idx v s

end Sys2Proof.Machine
end

