-- ==== Sys2Proof/Machine/Fetch.lean ====
section
/-! DEFINITION. What the block does next: go on with its command, take the host's next one, or let an agent move
(10_state.md R36, 00_scope.md R5). The block fetches no program (10_state.md R21): its instructions are the host's
commands, the entries `command` of `inputs`. -/

namespace Sys2Proof.Machine

/-- The next thing to do. -/
inductive Fetched where
  /-- Run this command, from IDLE or where it stands. -/
  | run (i : Instr) (s : State)
  /-- Nothing runs; the state is this one. -/
  | done (s : State)
  /-- The host's record is not one command. -/
  | bad (f : Fault)
  deriving DecidableEq, Repr

/-- The host issues a record: a command runs, an illegal opcode completes with IllegalOp and changes nothing else
(30_encoding.md R102). That it completes in the move that issues it, with no boundary at which PHASE is BUSY, is the
model's choice (log entry 20, DESIGN CHOICE: 10_state.md R36 names no command for such a record); what follows the opcode
in the record is ignored (log entry 17). -/
def fetchRecord (bytes : List Byte) (s : State) : Fetched :=
  match decode bytes with
  | .ok i => .run i s
  | .error (.illegalOpcode _) => .done (s.raise .illegalOp)
  | .error .truncated => .bad .partialRecord
  | .error .trailing => .bad .partialRecord

/-- A busy sequencer goes on. An idle one takes the next of `inputs`: the host's command, or another agent's move. With
no move entered it waits in IDLE for the host (70_reset_and_hazards.md R291), while the environment's further moves, if it
makes any, are entered (log entry 21). -/
def fetch (s : State) : Fetched :=
  match s.phase with
  | .busy i _ => .run i s
  | .idle =>
    match s.inputs with
    | [] => .done s.refill
    | .command bytes :: rest => fetchRecord bytes { s with inputs := rest }
    | e :: rest => .done ({ s with inputs := rest }.envMove e)

/-- The host's command port holds this record next, and the sequencer is ready to take it. -/
def State.withRecord (s : State) (bytes : List Byte) : State :=
  { s with phase := .idle, inputs := .command bytes :: s.inputs }

end Sys2Proof.Machine
end

