-- ==== Sys2Proof/Machine/Step.lean ====
section
/-! DEFINITION. One step of the machine. -/

namespace Sys2Proof.Machine

/-- One step: a command runs, from IDLE or from where it stands, until it ends or rests at a Wait; or, the sequencer
being idle, one other agent moves; or the environment's next round of moves is entered (log entries 1, 2 and 21). -/
def step (s : State) : Host.Outcome State Fault Refusal :=
  match fetch s with
  | .run i t => exec i t
  | .done t => .next t
  | .bad f => .fault f

/-- `s` with the instruction whose bits are `w` as the host's next command (log entry 1): the next step runs it. -/
def State.withFetchWord (s : State) (nbits w : Nat) : State := s.withRecord (recordOfWord nbits w)

end Sys2Proof.Machine
end

