-- ==== Sys2Proof/Machine/Assembly.lean ====
section
/-! DEFINITION. The assembler text of the host commands and the pseudo-instruction XFER (30_encoding.md R105, R106).
The block never sees it: a host's tool turns a line into the commands whose records the host sends. -/

namespace Sys2Proof.Machine

/-- What an assembler line is made of (30_encoding.md R105). -/
inductive Token where
  /-- A mnemonic, a keyword or a register name. -/
  | word (w : List Char)
  /-- A numeral or a character literal. -/
  | number (n : Nat)
  /-- A double-quoted ASCII string. -/
  | text (bytes : List Byte)
  | comma
  | openBracket
  | closeBracket
  deriving DecidableEq, Repr

/-- Where the reader of a line stands, with what it has gathered, last character first. -/
inductive LexMode where
  | plain (w : List Char)
  | text (bytes : List Byte)
  /-- Behind the quote that opens a character literal. -/
  | quoteOpen
  /-- Behind the character of a character literal. -/
  | quoteClose (n : Nat)
  | comment
  deriving DecidableEq, Repr

/-- The value of a digit of base 10 or 16. -/
def digitValue (base : Nat) (c : Char) : Option Nat :=
  let v := if '0' ≤ c ∧ c ≤ '9' then c.toNat - '0'.toNat
    else if 'a' ≤ c ∧ c ≤ 'f' then c.toNat - 'a'.toNat + 10
    else if 'A' ≤ c ∧ c ≤ 'F' then c.toNat - 'A'.toNat + 10
    else base
  if v < base then some v else none

/-- The value of a digit string, most significant digit first. -/
def digitsValue (base : Nat) (cs : List Char) : Option Nat :=
  cs.foldl (fun acc c => acc.bind (fun n => (digitValue base c).map (fun d => n * base + d))) (some 0)

/-- A word, read as a numeral if it begins with a digit (30_encoding.md R105: `0x79`, `121`). -/
def wordToken (w : List Char) : Option Token :=
  match w with
  | '0' :: 'x' :: d :: ds => (digitsValue 16 (d :: ds)).map Token.number
  | c :: cs => if '0' ≤ c ∧ c ≤ '9' then (digitsValue 10 (c :: cs)).map Token.number else some (.word (c :: cs))
  | [] => none

/-- The gathered word, if there is one, in front of the other tokens. -/
def flushWord (w : List Char) (ts : Option (List Token)) : Option (List Token) :=
  match w with
  | [] => ts
  | c :: cs => (wordToken (c :: cs).reverse).bind (fun t => ts.map (fun ts => t :: ts))

/-- The tokens of a line; `none` where a quote is not closed, a numeral is malformed or a quoted character is no ASCII
(30_encoding.md R105). -/
def lexLine : LexMode → List Char → Option (List Token)
  | .plain w, [] => flushWord w (some [])
  | .comment, [] => some []
  | .text _, [] => none
  | .quoteOpen, [] => none
  | .quoteClose _, [] => none
  | .comment, _ :: cs => lexLine .comment cs
  | .text bytes, c :: cs =>
    if c = '"' then (lexLine (.plain []) cs).map (fun ts => .text bytes.reverse :: ts)
    else if c.toNat < 128 then lexLine (.text (BitVec.ofNat 8 c.toNat :: bytes)) cs
    else none
  | .quoteOpen, c :: cs => if c.toNat < 128 then lexLine (.quoteClose c.toNat) cs else none
  | .quoteClose n, c :: cs => if c = '\'' then (lexLine (.plain []) cs).map (fun ts => .number n :: ts) else none
  | .plain w, c :: cs =>
    if c = ';' then flushWord w (lexLine .comment cs)
    else if c = ' ' ∨ c = '\t' then flushWord w (lexLine (.plain []) cs)
    else if c = ',' then flushWord w ((lexLine (.plain []) cs).map (fun ts => .comma :: ts))
    else if c = '[' then flushWord w ((lexLine (.plain []) cs).map (fun ts => .openBracket :: ts))
    else if c = ']' then flushWord w ((lexLine (.plain []) cs).map (fun ts => .closeBracket :: ts))
    else if c = '"' then flushWord w (lexLine (.text []) cs)
    else if c = '\'' then flushWord w (lexLine .quoteOpen cs)
    else lexLine (.plain (c :: w)) cs

/-! ## Operands -/

/-- A number that fits a field of `w` bits. -/
def fieldValue (w n : Nat) : Option (BitVec w) := if n < 2 ^ w then some (BitVec.ofNat w n) else none

/-- The items of a byte list and its closing bracket. -/
def byteItems : List Token → Option (List Byte × List Token)
  | .number n :: .comma :: ts =>
    (fieldValue 8 n).bind (fun b => (byteItems ts).map (fun p => (b :: p.1, p.2)))
  | .number n :: .closeBracket :: ts => (fieldValue 8 n).map (fun b => ([b], ts))
  | _ => none

/-- A byte list `[b0, b1, …]`. -/
def byteList : List Token → Option (List Byte × List Token)
  | .openBracket :: .closeBracket :: ts => some ([], ts)
  | .openBracket :: ts => byteItems ts
  | _ => none

/-- A byte list that ends the line. -/
def lastByteList (ts : List Token) : Option (List Byte) :=
  match byteList ts with
  | some (bytes, []) => some bytes
  | _ => none

/-- The index of a symbolic register name (44_control.md R240). -/
def cfgName (w : List Char) : Option CfgIndex :=
  if w = "STATUS".toList then some 0x0000
  else if w = "RESP_TIMEOUT_MS".toList then some 0x0001
  else if w = "REQ_DELAY_MS".toList then some 0x0002
  else if w = "CTRL".toList then some 0x0003
  else if w = "RING_CAPACITY".toList then some 0x0004
  else if w = "MAX_RESPONSE_LEN".toList then some 0x0005
  else if w = "MAX_REQUEST_LEN".toList then some 0x0006
  else if w = "MAX_OOB_PAYLOAD".toList then some 0x0007
  else if w = "CHANNEL_READ_TIMEOUT_MS".toList then some 0x0008
  else none

/-- A configuration index, as a numeral or by name, and the tokens behind it. -/
def cfgIndex : List Token → Option (CfgIndex × List Token)
  | .number n :: ts => (fieldValue 16 n).map (fun i => (i, ts))
  | .word w :: .openBracket :: .number n :: .closeBracket :: ts =>
    if w = "OOB_LEN".toList then (fieldValue 8 n).map (fun c => (0x0100 + c.setWidth 16, ts)) else none
  | .word w :: ts => (cfgName w).map (fun i => (i, ts))
  | _ => none

/-- SEND_REQ's flags by keyword, the reserved bits 0 (30_encoding.md R105). -/
def expectKeyword (w : List Char) : Option Byte :=
  if w = "expect".toList then some 0x01 else if w = "noexpect".toList then some 0x00 else none

/-! ## Commands -/

/-- The operands of a command of one byte. -/
def oneByte (mk : Byte → Instr) : List Token → Option Instr
  | [.number n] => (fieldValue 8 n).map mk
  | _ => none

/-- The operands of a command without any. -/
def noOperand (i : Instr) : List Token → Option Instr
  | [] => some i
  | _ => none

/-- DEC_BYTE's operands. -/
def twoBytes : List Token → Option Instr
  | [.number h, .comma, .number l] =>
    (fieldValue 8 h).bind (fun hi => (fieldValue 8 l).map (fun lo => .decByte hi lo))
  | _ => none

/-- CON_WRITE's operand: a byte list or a string. -/
def consoleText : List Token → Option Instr
  | [.text bytes] => some (.conWrite bytes)
  | ts => (lastByteList ts).map Instr.conWrite

/-- SEND_REQ's operands. -/
def requestOperands : List Token → Option Instr
  | .word w :: .comma :: ts =>
    (expectKeyword w).bind (fun flags => (lastByteList ts).map (fun bytes => .sendReq flags bytes))
  | _ => none

/-- CFG_READ's operand. -/
def readOperand (ts : List Token) : Option Instr :=
  match cfgIndex ts with
  | some (idx, []) => some (.cfgRead idx)
  | _ => none

/-- CFG_WRITE's operands. -/
def writeOperands (ts : List Token) : Option Instr :=
  match cfgIndex ts with
  | some (idx, [.comma, .number v]) => (fieldValue 32 v).map (fun v => .cfgWrite idx v)
  | _ => none

/-- GET_RESP's operand. -/
def capOperand : List Token → Option Instr
  | [.number n] => (fieldValue 16 n).map Instr.getResp
  | _ => none

/-- The command of a mnemonic and its operands (30_encoding.md R105, the forms). -/
def assembleCommand (w : List Char) (ts : List Token) : Option Instr :=
  if w = "DEC_NIBBLE".toList then oneByte .decNibble ts
  else if w = "DEC_BYTE".toList then twoBytes ts
  else if w = "ENC_BYTE".toList then oneByte .encByte ts
  else if w = "BUS_DEV".toList then noOperand .busDev ts
  else if w = "BUS_CON".toList then noOperand .busCon ts
  else if w = "BUS_DIR".toList then noOperand .busDir ts
  else if w = "CON_WRITE".toList then consoleText ts
  else if w = "SESSION_INIT".toList then (lastByteList ts).map Instr.sessionInit
  else if w = "SEND_REQ".toList then requestOperands ts
  else if w = "GET_RESP".toList then capOperand ts
  else if w = "POP_NOTIF".toList then noOperand .popNotif ts
  else if w = "RING_AVAIL".toList then noOperand .ringAvail ts
  else if w = "CFG_READ".toList then readOperand ts
  else if w = "CFG_WRITE".toList then writeOperands ts
  else none

/-- `XFER [bytes], cap` stands for these two commands, the second issued when the first has completed
(30_encoding.md R106). -/
def xfer (bytes : List Byte) (cap : BitVec 16) : List Instr := [.sendReq 0x01 bytes, .getResp cap]

/-- XFER's operands. -/
def xferOperands (ts : List Token) : Option (List Instr) :=
  match byteList ts with
  | some (bytes, [.comma, .number n]) => (fieldValue 16 n).map (fun cap => xfer bytes cap)
  | _ => none

/-- The commands a line stands for: none for a blank or comment line, two for XFER, one otherwise; `none` where the line
is none of R105's forms, or where a list is too long for its count field. -/
def assembleLine (line : List Char) : Option (List Instr) :=
  match lexLine (.plain []) line with
  | none => none
  | some [] => some []
  | some (.word w :: ts) =>
    ((if w = "XFER".toList then xferOperands ts else (assembleCommand w ts).map (fun i => [i]))).filter
      (fun is => is.all Instr.wellFormed)
  | some _ => none

end Sys2Proof.Machine
end

