-- ==== Sys2Proof/Safety.lean ====
section
/-! DEFINITION. What the claims call a state of the machine: the invariants the spec states or its rules imply, at every
micro-step boundary, and the environments the claims speak of. -/

namespace Sys2Proof.Machine

/-! ## Environments -/

/-- No agent but the sequencer moves until the host's next command: the moves end for good, or the host's is next. -/
def QuietInputs (source : Source) : List Input → Prop
  | [] => source = .ends
  | .command _ :: _ => True
  | .seq :: _ => False
  | .arrive _ _ :: _ => False
  | .emit :: _ => False
  | .tick _ :: _ => False
  | .reset :: _ => False

/-- The sequencer is idle, so that the host may issue a command (10_state.md R36), and the environment is quiet. -/
def State.ready (s : State) : Prop := s.phase = .idle ∧ QuietInputs s.source s.inputs

/-- The host's command ends with this RESULT, and its output says so (10_state.md R37, R40). -/
def State.answered (s : State) (st : Status) (data : List Byte) : State :=
  { s with
    phase := .idle
    result := some ⟨st, data⟩
    history := s.history ++ [.result ⟨st, data⟩] }

/-- The bus is on side `d`: DIR, and SEL's change if there is one (42_arbiter.md R160). -/
def State.onSide (s : State) (d : Direction) : State :=
  { s with
    dir := d
    history := s.history ++ (if s.dir = d then [] else [.sel d]) }

/-- The RELEASE restore of GET_RESP and POP_NOTIF, with TX empty (44_control.md R244). -/
def State.restored (s : State) : State := if s.release then s.onSide .toConsole else s

/-- The characters of one known notification, of any spelling (30_encoding.md R91), that is not taken for the pending
response: its id's pair, and as many pairs as OOB_LEN_TABLE gives the id (30_encoding.md R94, R97). -/
def State.isNotification (s : State) (chars : List Byte) : Prop :=
  ∃ h l payload n, chars = h :: l :: payload ∧ (s.pendingId = 0 ∨ pair h l ≠ s.pendingId) ∧
    s.build.oobLen (pair h l) = some n ∧ payload.length = 2 * n

/-- The state after so many steps; `none` where one of them stops. -/
def State.steps : Nat → State → Option State
  | 0, s => some s
  | n + 1, s =>
    match step s with
    | .next t => State.steps n t
    | .fault _ => none
    | .refused _ => none

/-! ## Positions -/

/-- The position a primitive returns to in the end. -/
def Micro.leaf : Micro → Micro
  | .wait back => back.leaf
  | .flush _ next => next.leaf
  | .steer _ next => next.leaf
  | .push _ next => next.leaf
  | μ => μ

/-- The running command's position holds no selector write. -/
def Micro.steerFree : Micro → Bool
  | .wait back => back.steerFree
  | .flush _ next => next.steerFree
  | .steer _ _ => false
  | .push _ next => next.steerFree
  | _ => true

/-- The positions of GET_RESP from `EXPECTED_LEN <- cap` to its `CLEAR_PENDING` (43_transport.md R189). -/
def Micro.inResponseLoop : Micro → Bool
  | .wait back => back.inResponseLoop
  | .respLoop | .respCollect | .respShort _ | .respDeadline _ | .respYield _ | .clear _ _ => true
  | .scanPop | .scanDecode _ | .scanMatch _ | .scanStore _ | .scanProbe | .scanLatch | .scanned _ => true
  | .oobLookup _ | .oobKnown _ _ | .oobDiscard _ _ | .oobLog _ _ | .oobPush _ => true
  | .payloadLen | .payloadStore _ | .payloadDiscard => true
  | .readStart _ _ | .readInit _ _ _ | .reading _ _ _ _ | .readDone _ _ => true
  | _ => false

/-! ## Invariants -/

/-- The ring's indices: RD is in range, `COUNT ≤ C`, and `WR = (RD + COUNT) mod C` (10_state.md R32, R33). -/
def Ring.indexed (c : Nat) (r : Ring) : Prop :=
  r.rd < c ∧ r.count ≤ c ∧ r.wr = (r.rd + r.count) % c

/-- Every frame the ring holds has 1 to `1 + maxPayload` bytes (10_state.md R32). -/
def Ring.framed (c maxPayload : Nat) (r : Ring) : Prop :=
  ∀ k < r.count, 1 ≤ (r.slot ((r.rd + k) % c)).flen ∧ (r.slot ((r.rd + k) % c)).flen ≤ maxPayload + 1

/-- What a read of notification bytes, and the frame made of them, may look like on a build (43_transport.md R183). -/
def Micro.notificationFits (maxPayload : Nat) : Micro → Prop
  | .oobKnown _ (some e) => e ≤ maxPayload
  | .readStart n (.oob _ e) => n = 2 * e ∧ e ≤ maxPayload
  | .readInit n _ (.oob _ e) => n = 2 * e ∧ e ≤ maxPayload
  | .reading n _ got (.oob _ e) => n = 2 * e ∧ e ≤ maxPayload ∧ got.length ≤ n
  | .readDone got (.oob _ e) => e ≤ maxPayload ∧ got.length ≤ 2 * e
  | .oobPush f => 1 ≤ f.length ∧ f.length ≤ maxPayload + 1
  | _ => True

/-- `MATCHED = 1` implies `PENDING_ID ≠ 0`, and the command byte stands in `RESP_BUF[0]` (10_state.md R25). -/
def State.matchedPending (s : State) : Prop :=
  s.matched = true → s.pendingId ≠ 0 ∧ s.respBuf.head? = some s.pendingId

/-- `EXPECTED_LEN ≠ 0` only inside GET_RESP's loop (43_transport.md R189). -/
def State.lengthOnlyInLoop (s : State) : Prop :=
  s.expectedLen ≠ 0 → ∃ cap μ, s.phase = .busy (.getResp cap) μ ∧ μ.inResponseLoop = true

/-- What the position of the running command says of the registers: a scan step that has matched has that request
pending, SEND_REQ behind its Busy test has none, a pair to pop is in RX, and TX is empty where the selector is
written. -/
def State.positionSound (s : State) : Prop :=
  ∀ cmd μ, s.phase = .busy cmd μ →
    (∀ c, μ.leaf = .scanStore c → s.pendingId ≠ 0 ∧ c = s.pendingId) ∧
    (μ.leaf = .scanProbe ∨ μ.leaf = .scanLatch → s.pendingId ≠ 0 ∧ s.respBuf.head? = some s.pendingId) ∧
    (μ.leaf = .sendParam ∨ μ.leaf = .spacing ∨ μ.leaf = .setPending → s.pendingId = 0) ∧
    (μ.leaf = .scanPop → 2 ≤ s.rx.length) ∧
    μ.leaf.notificationFits s.build.maxOobPayload ∧
    (μ.steerFree = true ∨ ∃ d next, μ = .steer d next ∧ next.steerFree = true ∧ s.tx = [])

/-- What every state of a run satisfies, whatever the environment does. -/
structure State.Inv (s : State) : Prop where
  /-- The build obeys 00_scope.md R7. -/
  build : s.build.wf = true
  /-- The storage has its form. -/
  memory : Memory.wf s
  /-- 10_state.md R33. -/
  indexed : s.ring.indexed s.build.ringCapacity
  /-- 10_state.md R32. -/
  framed : s.ring.framed s.build.ringCapacity s.build.maxOobPayload
  /-- 10_state.md R25. -/
  matched : s.matchedPending
  /-- 43_transport.md R189. -/
  length : s.lengthOnlyInLoop
  /-- The positions. -/
  position : s.positionSound

end Sys2Proof.Machine
end

