-- ==== Sys2Proof/Certificates/Slice0/Obligations.lean ====
section
/-! DEFINITION. The statements about the block, for the provers. A command's statement is about `exec` with a quiet
environment (`State.ready`), where the command runs to its end or to its first `Wait()`; that a run is cut there, and that
the other agents' moves stand in `inputs` and `source`, is the model's choice (log entries 1, 2 and 21). What happens at
every micro-step boundary, in every environment, is said of `State.move`. -/

open Sys2Proof Sys2Proof.Machine

/-! ## Encodings -/

/-- 30_encoding.md R98, R99, R101, R104: the decoder reads every well-formed command, with every operand, back from its
serialization. -/
def Obligations.DecodeOfEncode : Prop :=
  ∀ i : Instr, i.wellFormed = true → decode (encode i) = .ok i

/-- 30_encoding.md R98: a record has one meaning; what decodes is well formed and is that command's serialization. -/
def Obligations.EncodeOfDecode : Prop :=
  ∀ (bs : List Byte) (i : Instr), decode bs = .ok i → i.wellFormed = true ∧ encode i = bs

/-- 30_encoding.md R102, 60_exceptions.md R263: exactly the opcodes that R101 does not list are illegal; the host's record
of one completes with IllegalOp and empty data, and changes nothing but RESULT: no bus switch, no RELEASE restore. That the
bytes behind the opcode are ignored, in `decode` and in `step`, is read from the two rules (log entry 17, DEDUCED); that
the record completes in the move that issues it is the model's choice (log entry 20). -/
def Obligations.IllegalOpcodesCompleteWithIllegalOp : Prop :=
  ∀ (op : Byte) (rest : List Byte),
    (decode (op :: rest) = .error (.illegalOpcode op) ↔
      (op = 0x00 ∨ (0x04 ≤ op ∧ op ≤ 0x0F) ∨ (0x14 ≤ op ∧ op ≤ 0x1F) ∨ (0x25 ≤ op ∧ op ≤ 0x2F) ∨ 0x32 ≤ op)) ∧
    (∀ (s : State) (more : List Input), s.phase = .idle → s.inputs = .command (op :: rest) :: more →
      (op = 0x00 ∨ (0x04 ≤ op ∧ op ≤ 0x0F) ∨ (0x14 ≤ op ∧ op ≤ 0x1F) ∨ (0x25 ≤ op ∧ op ≤ 0x2F) ∨ 0x32 ≤ op) →
      step s = .next (State.answered { s with inputs := more } .illegalOp []))

/-- 30_encoding.md R104: the length of a command is found from its opcode and count field, whatever follows the
command. -/
def Obligations.RecordLengthIsFoundFromItsHead : Prop :=
  ∀ (i : Instr) (rest : List Byte), i.wellFormed = true →
    recordLength (encode i ++ rest) = some (encode i).length

/-- 30_encoding.md R98, R101: words written out from the formats decode to their commands. -/
def Obligations.WrittenOutRecordsDecode : Prop :=
  decode [0x02, 0x34, 0x44] = .ok (.decByte 0x34 0x44) ∧
  decode [0x13, 0x00, 0x02, 0x6F, 0x6B] = .ok (.conWrite [0x6F, 0x6B]) ∧
  decode [0x21, 0x01, 0x02, 0x79, 0x01] = .ok (.sendReq 0x01 [0x79, 0x01]) ∧
  decode [0x22, 0x01, 0x03] = .ok (.getResp 0x0103) ∧
  decode [0x31, 0x00, 0x01, 0x00, 0x00, 0x03, 0xE8] = .ok (.cfgWrite 0x0001 0x000003E8)

/-- 60_exceptions.md R260, R273, 30_encoding.md R100: the codes of the statuses and of the log records, and a result as
the host reads it. -/
def Obligations.StatusCodesAreNumbered : Prop :=
  [Status.ok, .notConnected, .noRequest, .param, .timeout, .responseTooShort, .empty, .busy, .illegalOp, .badResponse,
    .maxRetriesExceeded].map Status.code = [0x00, 0x01, 0x02, 0x03, 0x04, 0x05, 0x06, 0x07, 0x08, 0x09, 0x0A] ∧
  LogKind.unknownOob.code = 0x01 ∧ LogKind.shortOob.code = 0x02 ∧
  (∀ r : Result, r.bytes = r.status.code :: r.data)

/-- 30_encoding.md R105, R106: lines of the assembler's forms stand for their commands, and XFER for its two. That the
last line here, whose capacity does not fit its 16 bits, stands for no command is the model's choice (log entry 19). -/
def Obligations.AssemblerReadsItsForms : Prop :=
  assembleLine "DEC_NIBBLE '4'  ; F1".toList = some [.decNibble 0x34] ∧
  assembleLine "DEC_BYTE '4', 'D'".toList = some [.decByte 0x34 0x44] ∧
  assembleLine "CON_WRITE \"ok\"".toList = some [.conWrite [0x6F, 0x6B]] ∧
  assembleLine "SESSION_INIT []".toList = some [.sessionInit []] ∧
  assembleLine "SEND_REQ noexpect, [0x79, 1]".toList = some [.sendReq 0x00 [0x79, 0x01]] ∧
  assembleLine "GET_RESP 259".toList = some [.getResp 0x0103] ∧
  assembleLine "CFG_READ OOB_LEN[0x0A]".toList = some [.cfgRead 0x010A] ∧
  assembleLine "CFG_WRITE RESP_TIMEOUT_MS, 500".toList = some [.cfgWrite 0x0001 0x1F4] ∧
  assembleLine "XFER [0x79], 3".toList = some [.sendReq 0x01 [0x79], .getResp 3] ∧
  assembleLine "GET_RESP 65536".toList = none

/-! ## FrameCodec -/

/-- 30_encoding.md R91: the table of `hexval`. -/
def Obligations.HexvalFollowsItsTable : Prop :=
  ∀ x : Byte,
    (0x30 ≤ x ∧ x ≤ 0x39 → (hexval x).toNat = x.toNat - 0x30) ∧
    (0x41 ≤ x ∧ x ≤ 0x46 → (hexval x).toNat = x.toNat - 0x37) ∧
    (0x61 ≤ x ∧ x ≤ 0x66 → (hexval x).toNat = x.toNat - 0x57) ∧
    (¬(0x30 ≤ x ∧ x ≤ 0x39) ∧ ¬(0x41 ≤ x ∧ x ≤ 0x46) ∧ ¬(0x61 ≤ x ∧ x ≤ 0x66) → hexval x = 0)

/-- 20_memory.md R61: the first character of a pair carries the high nibble. -/
def Obligations.PairIsHighNibbleFirst : Prop :=
  ∀ h l : Byte, (pair h l).extractLsb' 4 4 = hexval h ∧ (pair h l).extractLsb' 0 4 = hexval l

/-- 40_codec.md R125: the character of a nibble, a byte's two characters, and that a nibble's character decodes to it and
a byte's pair of characters to the byte. -/
def Obligations.HexEncodingRoundTrips : Prop :=
  (∀ n : Nibble, (n.toNat ≤ 9 → (hexchar n).toNat = 0x30 + n.toNat) ∧
    (10 ≤ n.toNat → (hexchar n).toNat = 0x37 + n.toNat)) ∧
  (∀ n : Nibble, hexval (hexchar n) = n) ∧
  (∀ b : Byte, ∃ h l, encodeByte b = [h, l] ∧ h = hexchar (b.extractLsb' 4 4) ∧ l = hexchar (b.extractLsb' 0 4) ∧
    pair h l = b)

/-- 40_codec.md R120, R122, R124: the codec commands, read from their opcodes and operands, answer OK with the decoded
nibble, the decoded byte, the two characters, for every operand, and change nothing but RESULT. -/
def Obligations.CodecCommandsAnswer : Prop :=
  (∀ ch, decode [0x01, ch] = .ok (.decNibble ch)) ∧
  (∀ hi lo, decode [0x02, hi, lo] = .ok (.decByte hi lo)) ∧
  (∀ b, decode [0x03, b] = .ok (.encByte b)) ∧
  (∀ s : State, s.ready →
    (∀ ch, exec (.decNibble ch) s = .next (s.answered .ok [(hexval ch).setWidth 8])) ∧
    (∀ hi lo, exec (.decByte hi lo) s = .next (s.answered .ok [pair hi lo])) ∧
    (∀ b, exec (.encByte b) s =
      .next (s.answered .ok [hexchar (b.extractLsb' 4 4), hexchar (b.extractLsb' 0 4)])))

/-! ## BusArbiter -/

/-- 42_arbiter.md R161, R162: with TX empty, BUS_DEV and BUS_CON put the bus on their side, with no toggle where it is
there already, and answer OK. -/
def Obligations.BusCommandsSwitch : Prop :=
  ∀ s : State, s.ready → s.tx = [] →
    exec .busDev s = .next ((s.onSide .toDevice).answered .ok []) ∧
    exec .busCon s = .next ((s.onSide .toConsole).answered .ok [])

/-- 42_arbiter.md R160, 20_memory.md R70: where the serializer emits the bytes TX holds, whatever micro-steps the sequencer
takes before and between them (`moves`, and the last emission behind them), every byte goes out in order on the side
selected before the switch, and the selector changes after the last of them. -/
def Obligations.BusCommandsFlushBeforeTheySwitch : Prop :=
  ∀ (s : State) (moves rest : List Input), s.phase = .idle → s.inputs = moves ++ .emit :: rest →
    (∀ e ∈ moves, e = .seq ∨ e = .emit) → moves.count .emit + 1 = s.tx.length → QuietInputs s.source rest →
    exec .busDev s = .next
      ((State.onSide
        { s with tx := [], inputs := rest, history := s.history ++ s.tx.map (.wire s.dir) } .toDevice).answered .ok []) ∧
    exec .busCon s = .next
      ((State.onSide
        { s with tx := [], inputs := rest, history := s.history ++ s.tx.map (.wire s.dir) } .toConsole).answered .ok [])

/-- 42_arbiter.md R160: while TX holds a byte that nobody emits, a command that switches waits in its flush and has
changed nothing (GET_RESP has sampled the clock); so does the RELEASE restore of a GET_RESP that answers NoRequest or Param
and of a POP_NOTIF that answers NotConnected. That the run is cut at the Wait is the model's choice (log entry 2). -/
def Obligations.SwitchingCommandsWaitForTheFlush : Prop :=
  ∀ s : State, s.ready → s.tx ≠ [] →
    exec .busDev s = .next { s with phase := .busy .busDev (.wait (.flush .toDevice (.finish .ok []))) } ∧
    exec .busCon s = .next { s with phase := .busy .busCon (.wait (.flush .toConsole (.finish .ok []))) } ∧
    (∀ bytes, exec (.conWrite bytes) s = .next
      { s with phase := .busy (.conWrite bytes) (.wait (.flush .toConsole (.push bytes (.finish .ok [])))) }) ∧
    (∀ bytes, exec (.sessionInit bytes) s = .next
      { s with phase := .busy (.sessionInit bytes) (.wait (.flush .toDevice (.push bytes .connect))) }) ∧
    (∀ flags bytes, s.connected = true → s.pendingId = 0 → flags.extractLsb' 1 7 = 0 → bytes ≠ [] →
      bytes.length ≤ s.build.maxRequestLen →
      exec (.sendReq flags bytes) s = .next
        { s with phase := .busy (.sendReq flags bytes) (.wait (.flush .toDevice .spacing)) }) ∧
    (∀ cap, s.pendingId ≠ 0 → cap ≠ 0 → cap.toNat ≤ s.build.maxResponseLen →
      exec (.getResp cap) s = .next
        { s with getT0 := s.now, phase := .busy (.getResp cap) (.wait (.flush .toDevice .respLen)) }) ∧
    (s.connected = true →
      exec .popNotif s = .next { s with phase := .busy .popNotif (.wait (.flush .toDevice .popMatched)) }) ∧
    (∀ cap, s.release = true → s.pendingId = 0 →
      exec (.getResp cap) s = .next
        { s with
          getT0 := s.now
          phase := .busy (.getResp cap) (.wait (.flush .toConsole (.finish .noRequest []))) }) ∧
    (∀ cap, s.release = true → s.pendingId ≠ 0 → (cap = 0 ∨ s.build.maxResponseLen < cap.toNat) →
      exec (.getResp cap) s = .next
        { s with
          getT0 := s.now
          phase := .busy (.getResp cap) (.wait (.flush .toConsole (.finish .param []))) }) ∧
    (s.release = true → s.connected = false →
      exec .popNotif s = .next
        { s with phase := .busy .popNotif (.wait (.flush .toConsole (.finish .notConnected []))) })

/-- 42_arbiter.md R160, 20_memory.md R70: the wait of a flush ends with the emission of TX's last byte, on the side
selected before, and the command goes on: to its end where nothing else holds it, or, in GET_RESP, to its next wait (the
emissions are entries of `inputs`: log entry 1; the run is cut at a Wait: log entry 2). -/
def Obligations.FlushWaitsEndWithTheLastByte : Prop :=
  ∀ (s : State) (rest : List Input), s.tx ≠ [] → s.inputs = List.replicate s.tx.length .emit ++ rest →
    QuietInputs s.source rest →
    let t : State := { s with tx := [], inputs := rest, history := s.history ++ s.tx.map (.wire s.dir) }
    (s.phase = .busy .busDev (.wait (.flush .toDevice (.finish .ok []))) →
      step s = .next ((t.onSide .toDevice).answered .ok [])) ∧
    (s.phase = .busy .busCon (.wait (.flush .toConsole (.finish .ok []))) →
      step s = .next ((t.onSide .toConsole).answered .ok [])) ∧
    (∀ bytes, s.phase = .busy (.conWrite bytes) (.wait (.flush .toConsole (.push bytes (.finish .ok [])))) →
      bytes.length ≤ s.build.txFifoDepth →
      step s = .next (State.answered { t.onSide .toConsole with tx := bytes } .ok [])) ∧
    (∀ bytes, s.phase = .busy (.sessionInit bytes) (.wait (.flush .toDevice (.push bytes .connect))) →
      bytes.length ≤ s.build.txFifoDepth →
      step s = .next (State.answered { t.onSide .toDevice with tx := bytes, connected := true } .ok [])) ∧
    (∀ flags bytes, s.phase = .busy (.sendReq flags bytes) (.wait (.flush .toDevice .spacing)) →
      bytes.length ≤ s.build.txFifoDepth → (s.lastSendValid = true → s.reqDelayMs ≤ s.now - s.lastSend) →
      step s = .next (State.answered
        { t.onSide .toDevice with
          tx := bytes
          pendingId := if flags.getLsbD 0 then bytes.headD 0 else 0
          expectedLen := 0
          matched := false
          lastSend := s.now
          lastSendValid := true } .ok [])) ∧
    (∀ cap, s.phase = .busy (.getResp cap) (.wait (.flush .toDevice .respLen)) → s.matched = false →
      s.rx.length < 2 →
      step s = .next
        (if s.respTimeoutMs ≤ s.now - s.getT0 then
          (State.restored
            { t.onSide .toDevice with pendingId := 0, expectedLen := 0, matched := false }).answered .timeout []
         else
          { t.onSide .toDevice with
            expectedLen := cap.extractLsb' 0 8
            phase := .busy (.getResp cap) (.wait .respLoop) })) ∧
    (s.phase = .busy .popNotif (.wait (.flush .toDevice .popMatched)) → (s.matched = true ∨ s.rx.length < 2) →
      s.ring.count = 0 → step s = .next ((t.onSide .toDevice).restored.answered .empty [])) ∧
    (∀ cmd st data, (cmd = .popNotif ∨ ∃ cap, cmd = .getResp cap) →
      s.phase = .busy cmd (.wait (.flush .toConsole (.finish st data))) →
      step s = .next ((t.onSide .toConsole).answered st data))

/-- 42_arbiter.md R163: BUS_DIR answers 1 for ToDevice, 0 for ToConsole, and changes nothing but RESULT. -/
def Obligations.BusDirAnswersTheDirection : Prop :=
  decode [0x12] = .ok .busDir ∧
  (∀ s : State, s.ready →
    exec .busDir s = .next (s.answered .ok [if s.dir = .toDevice then 1 else 0]))

/-- 42_arbiter.md R164: CON_WRITE, with TX empty and room for its bytes, puts the bus on the console side and queues the
bytes raw, in order. -/
def Obligations.ConWriteQueuesItsBytes : Prop :=
  ∀ (s : State) (bytes : List Byte), s.ready → s.tx = [] → bytes.length ≤ s.build.txFifoDepth →
    exec (.conWrite bytes) s = .next (State.answered { s.onSide .toConsole with tx := bytes } .ok [])

/-- 20_memory.md R70: a command with more bytes than TX has room for fills TX, in order, and waits with the others; each
byte the serializer then emits lets it queue one more, and with the last of them queued the command goes on to its end
(cut at the Wait: log entry 2; the emissions are entries of `inputs`: log entry 1). -/
def Obligations.TransmissionWaitsForRoom : Prop :=
  (∀ (s : State) (bytes : List Byte), s.ready → s.tx = [] → s.build.txFifoDepth < bytes.length →
    exec (.conWrite bytes) s = .next
      { s.onSide .toConsole with
        tx := bytes.take s.build.txFifoDepth
        phase := .busy (.conWrite bytes) (.wait (.push (bytes.drop s.build.txFifoDepth) (.finish .ok []))) } ∧
    exec (.sessionInit bytes) s = .next
      { s.onSide .toDevice with
        tx := bytes.take s.build.txFifoDepth
        phase := .busy (.sessionInit bytes) (.wait (.push (bytes.drop s.build.txFifoDepth) .connect)) } ∧
    (∀ flags, s.connected = true → s.pendingId = 0 → flags.extractLsb' 1 7 = 0 →
      bytes.length ≤ s.build.maxRequestLen → (s.lastSendValid = true → s.reqDelayMs ≤ s.now - s.lastSend) →
      exec (.sendReq flags bytes) s = .next
        { s.onSide .toDevice with
          tx := bytes.take s.build.txFifoDepth
          pendingId := if flags.getLsbD 0 then bytes.headD 0 else 0
          expectedLen := 0
          matched := false
          phase := .busy (.sendReq flags bytes)
            (.wait (.push (bytes.drop s.build.txFifoDepth) .stampTime)) })) ∧
  (∀ (s : State) (k : Nat) (left bytes : List Byte) (rest : List Input), s.tx.length = s.build.txFifoDepth →
    k ≤ s.tx.length → s.inputs = List.replicate k .emit ++ rest → QuietInputs s.source rest →
    let t : State :=
      { s with
        tx := s.tx.drop k ++ left.take k
        inputs := rest
        history := s.history ++ (s.tx.take k).map (.wire s.dir) }
    (s.phase = .busy (.conWrite bytes) (.wait (.push left (.finish .ok []))) →
      step s = .next
        (if left.length ≤ k then t.answered .ok []
         else { t with phase := .busy (.conWrite bytes) (.wait (.push (left.drop k) (.finish .ok []))) })) ∧
    (s.phase = .busy (.sessionInit bytes) (.wait (.push left .connect)) →
      step s = .next
        (if left.length ≤ k then State.answered { t with connected := true } .ok []
         else { t with phase := .busy (.sessionInit bytes) (.wait (.push (left.drop k) .connect)) })) ∧
    (∀ flags, s.phase = .busy (.sendReq flags bytes) (.wait (.push left .stampTime)) →
      step s = .next
        (if left.length ≤ k then State.answered { t with lastSend := s.now, lastSendValid := true } .ok []
         else { t with phase := .busy (.sendReq flags bytes) (.wait (.push (left.drop k) .stampTime)) })))

/-- 42_arbiter.md R165, R160, 20_memory.md R72: at every micro-step boundary of a sound state, nothing changes DIR but
reset, which empties TX, and the selector write of a SWITCH, with TX empty: no byte queued for one side is emitted on the
other. -/
def Obligations.SelectorChangesOnlyWithTxDrained : Prop :=
  ∀ (s : State) (e : Input), s.Inv → (s.move e).dir ≠ s.dir →
    (s.move e).tx = [] ∧
    (e = .reset ∨ (e = .seq ∧ s.tx = [] ∧ ∃ cmd next, s.phase = .busy cmd (.steer (s.move e).dir next)))

/-! ## SESSION_INIT and SEND_REQ -/

/-- 43_transport.md R185: SESSION_INIT, with TX empty and room for its bytes, puts the bus on the device side, queues the
bytes raw, sets CONNECTED, and leaves everything else. -/
def Obligations.SessionInitConnects : Prop :=
  ∀ (s : State) (bytes : List Byte), s.ready → s.tx = [] → bytes.length ≤ s.build.txFifoDepth →
    exec (.sessionInit bytes) s = .next
      (State.answered { s.onSide .toDevice with tx := bytes, connected := true } .ok [])

/-- 10_state.md R22: only SESSION_INIT's statement sets CONNECTED, and only reset clears it. -/
def Obligations.OnlySessionInitConnects : Prop :=
  ∀ (s : State) (e : Input), (s.move e).connected ≠ s.connected →
    (e = .seq ∧ (s.move e).connected = true ∧ ∃ bytes, s.phase = .busy (.sessionInit bytes) .connect) ∨
    (e = .reset ∧ (s.move e).connected = false)

/-- 43_transport.md R186, 60_exceptions.md R262, R263: SEND_REQ's errors, in their order; each changes RESULT only. -/
def Obligations.SendReqRefusesInOrder : Prop :=
  ∀ (s : State) (flags : Byte) (bytes : List Byte), s.ready →
    (s.connected = false → exec (.sendReq flags bytes) s = .next (s.answered .notConnected [])) ∧
    (s.connected = true → s.pendingId ≠ 0 → exec (.sendReq flags bytes) s = .next (s.answered .busy [])) ∧
    (s.connected = true → s.pendingId = 0 →
      (flags.extractLsb' 1 7 ≠ 0 ∨ bytes.length = 0 ∨ s.build.maxRequestLen < bytes.length) →
      exec (.sendReq flags bytes) s = .next (s.answered .param []))

/-- 43_transport.md R186: SEND_REQ, where no check fails, TX is empty and has room, and the spacing has passed, puts the
bus on the device side, records the pending id or the sentinel, queues the bytes raw and stamps the time. -/
def Obligations.SendReqSends : Prop :=
  ∀ (s : State) (flags : Byte) (bytes : List Byte), s.ready → s.connected = true → s.pendingId = 0 →
    flags.extractLsb' 1 7 = 0 → bytes ≠ [] → bytes.length ≤ s.build.maxRequestLen →
    s.tx = [] → bytes.length ≤ s.build.txFifoDepth →
    (s.lastSendValid = true → s.reqDelayMs ≤ s.now - s.lastSend) →
    exec (.sendReq flags bytes) s = .next
      (State.answered
        { s.onSide .toDevice with
          tx := bytes
          pendingId := if flags.getLsbD 0 then bytes.headD 0 else 0
          expectedLen := 0
          matched := false
          lastSend := s.now
          lastSendValid := true } .ok [])

/-- 43_transport.md R186, R192: a SEND_REQ that comes too early waits, with the bus on the device side and nothing queued;
a clock tick that reaches the spacing lets it go on, one that does not leaves it waiting (cut at the Wait: log entry 2). -/
def Obligations.SendReqWaitsForTheSpacing : Prop :=
  (∀ (s : State) (flags : Byte) (bytes : List Byte), s.ready → s.connected = true → s.pendingId = 0 →
    flags.extractLsb' 1 7 = 0 → bytes ≠ [] → bytes.length ≤ s.build.maxRequestLen →
    s.tx = [] → s.lastSendValid = true → s.now - s.lastSend < s.reqDelayMs →
    exec (.sendReq flags bytes) s = .next
      { s.onSide .toDevice with phase := .busy (.sendReq flags bytes) (.wait .spacing) }) ∧
  (∀ (s : State) (flags : Byte) (bytes : List Byte) (ms : Time) (rest : List Input),
    s.phase = .busy (.sendReq flags bytes) (.wait .spacing) → s.inputs = .tick ms :: rest →
    QuietInputs s.source rest →
    s.lastSendValid = true → s.tx = [] → bytes.length ≤ s.build.txFifoDepth →
    step s = .next
      (if s.now + ms - s.lastSend < s.reqDelayMs then { s with now := s.now + ms, inputs := rest }
       else State.answered
        { s with
          now := s.now + ms
          inputs := rest
          tx := bytes
          pendingId := if flags.getLsbD 0 then bytes.headD 0 else 0
          expectedLen := 0
          matched := false
          lastSend := s.now + ms } .ok []))

/-- 43_transport.md R192: at every micro-step boundary, SEND_REQ goes on to record and push its request only where the
time since LAST_SEND, if there is one, has reached REQ_DELAY_MS. -/
def Obligations.RequestsAreNeverEarly : Prop :=
  ∀ (s : State) (flags : Byte) (bytes : List Byte) (μ : Micro), s.phase = .busy (.sendReq flags bytes) μ →
    μ.leaf ≠ .setPending → (seqStep s).phase = .busy (.sendReq flags bytes) .setPending →
    s.lastSendValid = true → s.reqDelayMs ≤ s.now - s.lastSend

/-! ## GET_RESP -/

/-- 43_transport.md R187, 60_exceptions.md R262: GET_RESP with nothing pending, or with a capacity of 0 or beyond
MAX_RESPONSE_LEN, answers NoRequest or Param; it has sampled the clock and restored the console if RELEASE says so,
and the pending request is as it was. -/
def Obligations.GetRespRefusesInOrder : Prop :=
  ∀ (s : State) (cap : BitVec 16), s.ready → (s.release = true → s.tx = []) →
    (s.pendingId = 0 →
      exec (.getResp cap) s = .next ((State.restored { s with getT0 := s.now }).answered .noRequest [])) ∧
    (s.pendingId ≠ 0 → (cap = 0 ∨ s.build.maxResponseLen < cap.toNat) →
      exec (.getResp cap) s = .next ((State.restored { s with getT0 := s.now }).answered .param []))

/-- 43_transport.md R187, R182, R184, 10_state.md R26: with the pending byte's pair and all payload pairs in RX,
GET_RESP answers the decoded response behind its length, leaves the bytes behind it in RX, and clears the pending
request; any spelling of the pairs, malformed ones too, decodes by 30_encoding.md R91. -/
def Obligations.GetRespReturnsTheResponse : Prop :=
  ∀ (s : State) (cap : BitVec 16) (h l : Byte) (chars tail : List Byte), s.ready → s.tx = [] →
    s.pendingId ≠ 0 → s.matched = false → cap ≠ 0 → cap.toNat ≤ s.build.maxResponseLen →
    s.build.maxResponseLen ≤ 255 → s.respBuf.length = s.build.maxResponseLen →
    s.rx = h :: l :: chars ++ tail → pair h l = s.pendingId → chars.length = 2 * (cap.toNat - 1) →
    exec (.getResp cap) s = .next
      ((State.restored (State.onSide
        { s with
          getT0 := s.now
          rx := tail
          respBuf := s.pendingId :: decodePairs chars ++ s.respBuf.drop cap.toNat
          pendingId := 0
          expectedLen := 0
          matched := false } .toDevice)).answered .ok
        (cap.extractLsb' 0 8 :: s.pendingId :: decodePairs chars))

/-- 43_transport.md R187, 10_state.md R25: behind a probe hit GET_RESP starts from the payload: the command byte is the
one in RESP_BUF[0], and no pair is scanned for it. -/
def Obligations.GetRespGoesOnFromTheProbe : Prop :=
  ∀ (s : State) (cap : BitVec 16) (c : Byte) (buf chars tail : List Byte), s.ready → s.tx = [] →
    s.pendingId ≠ 0 → s.matched = true → cap ≠ 0 → cap.toNat ≤ s.build.maxResponseLen →
    s.build.maxResponseLen ≤ 255 → s.respBuf = c :: buf → s.respBuf.length = s.build.maxResponseLen →
    s.rx = chars ++ tail → chars.length = 2 * (cap.toNat - 1) →
    exec (.getResp cap) s = .next
      ((State.restored (State.onSide
        { s with
          getT0 := s.now
          rx := tail
          respBuf := c :: decodePairs chars ++ s.respBuf.drop cap.toNat
          pendingId := 0
          expectedLen := 0
          matched := false } .toDevice)).answered .ok
        (cap.extractLsb' 0 8 :: c :: decodePairs chars))

/-- 43_transport.md R182, R183, R187, 41_ring.md R140: any number of known notifications that arrive before the response,
of any spelling (30_encoding.md R91), go into the ring, in their order, and the response still correlates (the testable
property W4 of 95_test_vectors.md); but with RESP_TIMEOUT_MS = 0 the pass that decodes the first of them is the only one,
and what is behind it stays in RX. -/
def Obligations.NotificationsBeforeAResponseGoToTheRing : Prop :=
  ∀ (s : State) (cap : BitVec 16) (notifs : List (List Byte)) (h l : Byte) (chars tail : List Byte), s.ready →
    s.tx = [] → s.pendingId ≠ 0 → s.matched = false → cap ≠ 0 → cap.toNat ≤ s.build.maxResponseLen →
    s.build.maxResponseLen ≤ 255 → s.respBuf.length = s.build.maxResponseLen →
    (∀ f ∈ notifs, s.isNotification f) → pair h l = s.pendingId → chars.length = 2 * (cap.toNat - 1) →
    s.rx = notifs.flatten ++ (h :: l :: chars ++ tail) →
    (s.respTimeoutMs ≠ 0 →
      exec (.getResp cap) s = .next
        ((State.restored (State.onSide
          { s with
            getT0 := s.now
            rx := tail
            ring := (notifs.map decodePairs).foldl (Ring.push s.build.ringCapacity) s.ring
            respBuf := s.pendingId :: decodePairs chars ++ s.respBuf.drop cap.toNat
            pendingId := 0
            expectedLen := 0
            matched := false } .toDevice)).answered .ok
          (cap.extractLsb' 0 8 :: s.pendingId :: decodePairs chars))) ∧
    (∀ first more, s.respTimeoutMs = 0 → notifs = first :: more →
      exec (.getResp cap) s = .next
        ((State.restored (State.onSide
          { s with
            getT0 := s.now
            rx := more.flatten ++ (h :: l :: chars ++ tail)
            ring := s.ring.push s.build.ringCapacity (decodePairs first)
            pendingId := 0
            expectedLen := 0
            matched := false } .toDevice)).answered .timeout []))

/-- 43_transport.md R187, R267: with fewer than two bytes in RX, GET_RESP times out at once if RESP_TIMEOUT_MS is 0, and
waits otherwise, having recorded the capacity (cut at the Wait: log entry 2). -/
def Obligations.GetRespWaitsForTheResponse : Prop :=
  ∀ (s : State) (cap : BitVec 16), s.ready → s.tx = [] → s.pendingId ≠ 0 → s.matched = false → cap ≠ 0 →
    cap.toNat ≤ s.build.maxResponseLen → s.rx.length < 2 →
    (s.respTimeoutMs = 0 →
      exec (.getResp cap) s = .next
        ((State.restored (State.onSide
          { s with getT0 := s.now, pendingId := 0, expectedLen := 0, matched := false } .toDevice)).answered
          .timeout [])) ∧
    (s.respTimeoutMs ≠ 0 →
      exec (.getResp cap) s = .next
        { s.onSide .toDevice with
          getT0 := s.now
          expectedLen := cap.extractLsb' 0 8
          phase := .busy (.getResp cap) (.wait .respLoop) })

/-- 43_transport.md R187, R182, R192, 00_scope.md R10: a waiting GET_RESP that finds fewer than two bytes times out at the
tick where the time since GET_T0, modulo 2^W, has reached RESP_TIMEOUT_MS, and at no earlier one; before that, a byte that
arrives is kept, and with the second one GET_RESP goes on: to the response, to the wait for its payload, or past a
notification to its wait (ticks and arrivals are entries of `inputs`: log entry 1; cut at a Wait: log entry 2). -/
def Obligations.GetRespTimesOutAtItsDeadline : Prop :=
  (∀ (s : State) (cap : BitVec 16) (ms : Time) (rest : List Input),
    s.phase = .busy (.getResp cap) (.wait .respLoop) → s.inputs = .tick ms :: rest → QuietInputs s.source rest →
    s.matched = false → s.rx.length < 2 → (s.release = true → s.tx = []) →
    step s = .next
      (if s.respTimeoutMs ≤ s.now + ms - s.getT0 then
        (State.restored
          { s with
            now := s.now + ms
            inputs := rest
            pendingId := 0
            expectedLen := 0
            matched := false }).answered .timeout []
       else { s with now := s.now + ms, inputs := rest })) ∧
  (∀ (s : State) (cap : BitVec 16) (b : Byte) (rest : List Input),
    s.phase = .busy (.getResp cap) (.wait .respLoop) → s.inputs = .arrive s.dir b :: rest →
    QuietInputs s.source rest → s.matched = false → 2 ≤ s.build.rxFifoDepth → s.now - s.getT0 < s.respTimeoutMs →
    (s.rx = [] → step s = .next { s with inputs := rest, rx := [b] }) ∧
    (∀ h, s.rx = [h] → s.pendingId ≠ 0 → pair h b = s.pendingId →
      (s.expectedLen = 1 → s.respBuf ≠ [] → (s.release = true → s.tx = []) →
        step s = .next
          ((State.restored
            { s with
              inputs := rest
              rx := []
              respBuf := s.pendingId :: s.respBuf.drop 1
              pendingId := 0
              expectedLen := 0
              matched := false }).answered .ok [1, s.pendingId])) ∧
      (1 < s.expectedLen.toNat → s.build.channelReadTimeoutMs ≠ 0 →
        step s = .next
          { s with
            inputs := rest
            rx := []
            respBuf := memWrite s.respBuf 0 [s.pendingId]
            phase := .busy (.getResp cap)
              (.wait (.reading (2 * (s.expectedLen.toNat - 1)) s.now [] (.payload (s.expectedLen.toNat - 1)))) })) ∧
    (∀ h, s.rx = [h] → s.isNotification [h, b] →
      step s = .next
        { s with inputs := rest, rx := [], ring := s.ring.push s.build.ringCapacity [pair h b] }))

/-- 43_transport.md R192: at every micro-step boundary, GET_RESP turns to its Timeout outcome only where the time since
GET_T0 has reached RESP_TIMEOUT_MS. -/
def Obligations.TimeoutIsNeverEarly : Prop :=
  ∀ (s : State) (cap : BitVec 16) (μ : Micro) (data : List Byte), s.phase = .busy (.getResp cap) μ →
    (∀ st d, μ.leaf ≠ .clear st d) →
    (seqStep s).phase = .busy (.getResp cap) (.clear .timeout data) →
    s.respTimeoutMs ≤ s.now - s.getT0

/-- 43_transport.md R180, R183, R184, R187: a read that waits for payload bytes ends at the tick where the time since the
read began has reached CHANNEL_READ_TIMEOUT_MS: GET_RESP's own payload ends in ResponseTooShort; a notification's is
dropped with a SHORT_OOB record, whereupon POP_NOTIF pops and GET_RESP goes back to its wait, or times out if its own
deadline has passed; an earlier tick leaves it waiting. A byte that arrives before that is taken, and the last one
completes the response or the notification (ticks and arrivals are entries of `inputs`: log entry 1; cut at a Wait: log
entry 2). -/
def Obligations.ShortReadsEndAtTheChannelTimeout : Prop :=
  (∀ (s : State) (cap : BitVec 16) (n m : Nat) (t ms : Time) (got : List Byte) (rest : List Input),
    s.phase = .busy (.getResp cap) (.wait (.reading n t got (.payload m))) →
    s.inputs = .tick ms :: rest → QuietInputs s.source rest →
    s.rx = [] → n = 2 * m → got.length < n → (s.release = true → s.tx = []) →
    step s = .next
      (if s.build.channelReadTimeoutMs ≤ s.now + ms - t then
        (State.restored
          { s with
            now := s.now + ms
            inputs := rest
            pendingId := 0
            expectedLen := 0
            matched := false }).answered .responseTooShort []
       else { s with now := s.now + ms, inputs := rest })) ∧
  (∀ (s : State) (n e : Nat) (c : Byte) (t ms : Time) (got : List Byte) (rest : List Input),
    s.phase = .busy .popNotif (.wait (.reading n t got (.oob c e))) →
    s.inputs = .tick ms :: rest → QuietInputs s.source rest →
    s.rx = [] → n = 2 * e → got.length < n → (s.release = true → s.tx = []) →
    let u : State := { s with now := s.now + ms, inputs := rest, history := s.history ++ [.log .shortOob c] }
    step s = .next
      (if s.build.channelReadTimeoutMs ≤ s.now + ms - t then
        if s.ring.count = 0 then u.restored.answered .empty []
        else
          (State.restored
            { u with
              ring :=
                { s.ring with rd := (s.ring.rd + 1) % s.build.ringCapacity, count := s.ring.count - 1 } }).answered .ok
            (BitVec.ofNat 8 (s.ring.slot s.ring.rd).frame.length :: (s.ring.slot s.ring.rd).frame)
       else { s with now := s.now + ms, inputs := rest })) ∧
  (∀ (s : State) (cap : BitVec 16) (n e : Nat) (c : Byte) (t ms : Time) (got : List Byte) (rest : List Input),
    s.phase = .busy (.getResp cap) (.wait (.reading n t got (.oob c e))) →
    s.inputs = .tick ms :: rest → QuietInputs s.source rest →
    s.rx = [] → n = 2 * e → got.length < n → s.matched = false → (s.release = true → s.tx = []) →
    let u : State := { s with now := s.now + ms, inputs := rest, history := s.history ++ [.log .shortOob c] }
    step s = .next
      (if s.build.channelReadTimeoutMs ≤ s.now + ms - t then
        if s.respTimeoutMs ≤ s.now + ms - s.getT0 then
          (State.restored { u with pendingId := 0, expectedLen := 0, matched := false }).answered .timeout []
        else { u with phase := .busy (.getResp cap) (.wait .respLoop) }
       else { s with now := s.now + ms, inputs := rest })) ∧
  (∀ (s : State) (cap : BitVec 16) (n m : Nat) (t : Time) (b : Byte) (got : List Byte) (rest : List Input),
    s.phase = .busy (.getResp cap) (.wait (.reading n t got (.payload m))) →
    s.inputs = .arrive s.dir b :: rest → QuietInputs s.source rest →
    s.rx = [] → 1 ≤ s.build.rxFifoDepth → n = 2 * m → s.now - t < s.build.channelReadTimeoutMs →
    (got.length + 1 < n →
      step s = .next
        { s with
          inputs := rest
          phase := .busy (.getResp cap) (.wait (.reading n t (got ++ [b]) (.payload m))) }) ∧
    (∀ c buf, got.length + 1 = n → s.respBuf = c :: buf → m ≤ buf.length → s.expectedLen.toNat = m + 1 →
      (s.release = true → s.tx = []) →
      step s = .next
        ((State.restored
          { s with
            inputs := rest
            respBuf := c :: decodePairs (got ++ [b]) ++ buf.drop m
            pendingId := 0
            expectedLen := 0
            matched := false }).answered .ok (s.expectedLen :: c :: decodePairs (got ++ [b]))))) ∧
  (∀ (s : State) (n e : Nat) (c : Byte) (t : Time) (b : Byte) (got : List Byte) (rest : List Input) (r : Ring),
    s.phase = .busy .popNotif (.wait (.reading n t got (.oob c e))) →
    s.inputs = .arrive s.dir b :: rest → QuietInputs s.source rest →
    s.rx = [] → 1 ≤ s.build.rxFifoDepth → n = 2 * e → s.now - t < s.build.channelReadTimeoutMs →
    r = s.ring.push s.build.ringCapacity (c :: decodePairs (got ++ [b])) →
    (got.length + 1 < n →
      step s = .next
        { s with
          inputs := rest
          phase := .busy .popNotif (.wait (.reading n t (got ++ [b]) (.oob c e))) }) ∧
    (got.length + 1 = n → (s.release = true → s.tx = []) →
      step s = .next
        ((State.restored
          { s with
            inputs := rest
            ring := { r with rd := (r.rd + 1) % s.build.ringCapacity, count := r.count - 1 } }).answered .ok
          (BitVec.ofNat 8 (r.slot r.rd).frame.length :: (r.slot r.rd).frame))))

/-- 43_transport.md R184, R180: with the pending byte's pair but too few payload bytes in RX, GET_RESP takes what there is
and, in an environment where the clock stands, ends in ResponseTooShort if CHANNEL_READ_TIMEOUT_MS is 0 and waits in its
read otherwise (that `exec` answers the state at the Wait is the model's choice: log entry 2). -/
def Obligations.GetRespReadsAShortPayload : Prop :=
  ∀ (s : State) (cap : BitVec 16) (h l : Byte) (chars : List Byte), s.ready → s.tx = [] →
    s.pendingId ≠ 0 → s.matched = false → cap ≠ 0 → cap.toNat ≤ s.build.maxResponseLen →
    s.build.maxResponseLen ≤ 255 →
    s.rx = h :: l :: chars → pair h l = s.pendingId → chars.length < 2 * (cap.toNat - 1) →
    (s.build.channelReadTimeoutMs = 0 →
      exec (.getResp cap) s = .next
        ((State.restored (State.onSide
          { s with
            getT0 := s.now
            rx := []
            respBuf := memWrite s.respBuf 0 [s.pendingId]
            pendingId := 0
            expectedLen := 0
            matched := false } .toDevice)).answered .responseTooShort [])) ∧
    (s.build.channelReadTimeoutMs ≠ 0 →
      exec (.getResp cap) s = .next
        { s.onSide .toDevice with
          getT0 := s.now
          expectedLen := cap.extractLsb' 0 8
          rx := []
          respBuf := memWrite s.respBuf 0 [s.pendingId]
          phase := .busy (.getResp cap)
            (.wait (.reading (2 * (cap.toNat - 1)) s.now chars (.payload (cap.toNat - 1)))) })

/-- 43_transport.md R190, 10_state.md R23, R26: while a request is pending, no move changes PENDING_ID but reset and
CLEAR_PENDING, and both make it 0: at most one request is outstanding. -/
def Obligations.APendingRequestIsOnlyCleared : Prop :=
  ∀ (s : State) (e : Input), s.Inv → s.pendingId ≠ 0 → (s.move e).pendingId ≠ s.pendingId →
    (s.move e).pendingId = 0 ∧
    (e = .reset ∨ (e = .seq ∧ ∃ cmd st data, s.phase = .busy cmd (.clear st data)))

/-! ## POP_NOTIF and the ring -/

/-- 43_transport.md R188: POP_NOTIF before a session answers NotConnected, does not switch to the device, and applies the
RELEASE restore. -/
def Obligations.PopNotifNeedsASession : Prop :=
  ∀ s : State, s.ready → s.connected = false → (s.release = true → s.tx = []) →
    exec .popNotif s = .next (s.restored.answered .notConnected [])

/-- 43_transport.md R188, 41_ring.md R141: with nothing to scan (fewer than two bytes in RX, or a probe hit before),
POP_NOTIF leaves RX alone and answers the oldest frame behind its length and drops it, or answers Empty. -/
def Obligations.PopNotifReturnsTheOldestFrame : Prop :=
  ∀ s : State, s.ready → s.tx = [] → s.connected = true → (s.matched = true ∨ s.rx.length < 2) →
    (s.ring.count = 0 → exec .popNotif s = .next ((s.onSide .toDevice).restored.answered .empty [])) ∧
    (s.ring.count ≠ 0 →
      exec .popNotif s = .next
        ((State.restored (State.onSide
          { s with
            ring :=
              { s.ring with rd := (s.ring.rd + 1) % s.build.ringCapacity, count := s.ring.count - 1 } }
          .toDevice)).answered .ok
          (BitVec.ofNat 8 (s.ring.slot s.ring.rd).frame.length :: (s.ring.slot s.ring.rd).frame)))

/-- 43_transport.md R183, R188, 41_ring.md R140, R141: POP_NOTIF decodes every complete known notification in RX, of any
spelling (30_encoding.md R91), pushes them in order, leaves a byte that makes no pair, and answers the oldest frame of the
ring, if there is one. -/
def Obligations.PopNotifDecodesWhatArrived : Prop :=
  ∀ (s : State) (notifs : List (List Byte)) (tail : List Byte) (r : Ring), s.ready → s.tx = [] →
    s.connected = true → s.matched = false → (∀ f ∈ notifs, s.isNotification f) →
    s.rx = notifs.flatten ++ tail → tail.length < 2 →
    r = (notifs.map decodePairs).foldl (Ring.push s.build.ringCapacity) s.ring →
    (r.count = 0 →
      exec .popNotif s = .next
        ((State.restored (State.onSide { s with rx := tail, ring := r } .toDevice)).answered .empty [])) ∧
    (r.count ≠ 0 →
      exec .popNotif s = .next
        ((State.restored (State.onSide
          { s with
            rx := tail
            ring := { r with rd := (r.rd + 1) % s.build.ringCapacity, count := r.count - 1 } } .toDevice)).answered
          .ok (BitVec.ofNat 8 (r.slot r.rd).frame.length :: (r.slot r.rd).frame)))

/-- 43_transport.md R182, R188: POP_NOTIF stops at the pending byte's pair: it stores the byte, sets MATCHED, leaves the
rest of RX for GET_RESP, and pops. -/
def Obligations.PopNotifProbeLatchesTheMatch : Prop :=
  ∀ (s : State) (h l : Byte) (rest : List Byte), s.ready → s.tx = [] → s.connected = true → s.matched = false →
    s.expectedLen = 0 → s.pendingId ≠ 0 → s.rx = h :: l :: rest → pair h l = s.pendingId → s.respBuf ≠ [] →
    let u : State :=
      State.onSide { s with rx := rest, respBuf := s.pendingId :: s.respBuf.drop 1, matched := true } .toDevice
    (s.ring.count = 0 → exec .popNotif s = .next (u.restored.answered .empty [])) ∧
    (s.ring.count ≠ 0 →
      exec .popNotif s = .next
        ((State.restored
          { u with
            ring :=
              { s.ring with rd := (s.ring.rd + 1) % s.build.ringCapacity, count := s.ring.count - 1 } }).answered .ok
          (BitVec.ofNat 8 (s.ring.slot s.ring.rd).frame.length :: (s.ring.slot s.ring.rd).frame)))

/-- 43_transport.md R183, 60_exceptions.md R273, 70_reset_and_hazards.md R297: an id the table does not know discards
everything in RX, the response behind it too, and is logged; no frame is pushed. POP_NOTIF then pops; GET_RESP times out if
RESP_TIMEOUT_MS is 0 and waits otherwise (cut at the Wait: log entry 2). -/
def Obligations.UnknownIdsDiscardRx : Prop :=
  ∀ (s : State) (h l : Byte) (rest : List Byte), s.ready → s.tx = [] → s.matched = false →
    (s.pendingId = 0 ∨ pair h l ≠ s.pendingId) → s.build.oobLen (pair h l) = none → s.rx = h :: l :: rest →
    let t : State := s.onSide .toDevice
    let u : State := { t with rx := [], history := t.history ++ [.log .unknownOob (pair h l)] }
    (s.connected = true → s.ring.count = 0 → exec .popNotif s = .next (u.restored.answered .empty [])) ∧
    (s.connected = true → s.ring.count ≠ 0 →
      exec .popNotif s = .next
        ((State.restored
          { u with
            ring :=
              { s.ring with rd := (s.ring.rd + 1) % s.build.ringCapacity, count := s.ring.count - 1 } }).answered .ok
          (BitVec.ofNat 8 (s.ring.slot s.ring.rd).frame.length :: (s.ring.slot s.ring.rd).frame))) ∧
    (∀ cap : BitVec 16, s.pendingId ≠ 0 → cap ≠ 0 → cap.toNat ≤ s.build.maxResponseLen →
      (s.respTimeoutMs = 0 →
        exec (.getResp cap) s = .next
          ((State.restored
            { u with getT0 := s.now, pendingId := 0, expectedLen := 0, matched := false }).answered .timeout [])) ∧
      (s.respTimeoutMs ≠ 0 →
        exec (.getResp cap) s = .next
          { u with
            getT0 := s.now
            expectedLen := cap.extractLsb' 0 8
            phase := .busy (.getResp cap) (.wait .respLoop) }))

/-- 70_reset_and_hazards.md R303, 43_transport.md R188: a device that sends without pause keeps POP_NOTIF scanning: where
it offers one notification's characters again and again, with the micro-steps that decode one in between, POP_NOTIF stands
before its scan after any number of steps, and every frame has gone to the ring. That such an environment is a value of
`source` is the model's choice (log entry 21), the number of micro-steps log entry 3. -/
def Obligations.PopNotifScansWithoutEnd : Prop :=
  ∀ (s : State) (chars : List Byte), s.phase = .busy .popNotif .popLoop → s.rx = [] → s.isNotification chars →
    chars.length ≤ s.build.rxFifoDepth →
    s.inputs = chars.map (.arrive s.dir) ++ List.replicate (chars.length + 10) .seq → s.source = .cycle s.inputs →
    ∀ n, s.steps n =
      some { s with ring := (List.replicate n (decodePairs chars)).foldl (Ring.push s.build.ringCapacity) s.ring }

/-- 41_ring.md R142: RING_AVAIL answers COUNT and changes nothing but RESULT; RX is not scanned. -/
def Obligations.RingAvailAnswersTheCount : Prop :=
  decode [0x24] = .ok .ringAvail ∧
  (∀ s : State, s.ready → exec .ringAvail s = .next (s.answered .ok [BitVec.ofNat 8 s.ring.count]))

/-- 41_ring.md R140, R141, R144: in frames, a push appends and, when the ring is full, drops the oldest first; a pop
returns and drops the oldest. -/
def Obligations.RingIsAFifoThatOverwrites : Prop :=
  ∀ (c : Nat) (r : Ring), r.indexed c → r.slots.length = c →
    (∀ f : List Byte, (∀ t ∈ r.slots, f.length ≤ t.fb.length) →
      (r.push c f).frames c = (if r.count = c then (r.frames c).drop 1 else r.frames c) ++ [f]) ∧
    r.oldest = (r.frames c).head? ∧
    (r.dropOldest c).frames c = (r.frames c).drop 1

/-- 10_state.md R33: `COUNT ≤ C` and `WR = (RD + COUNT) mod C` hold after reset, and every move of every agent, at every
micro-step boundary, keeps them. -/
def Obligations.RingInvariantsHoldAtEveryBoundary : Prop :=
  State.reset.ring.indexed State.reset.build.ringCapacity ∧
  (∀ (s : State) (e : Input), s.ring.indexed s.build.ringCapacity →
    (s.move e).ring.indexed (s.move e).build.ringCapacity)

/-- 41_ring.md R144: after any number of pushes into an empty ring it holds exactly the last C frames, in push order. -/
def Obligations.RingHoldsTheLastFrames : Prop :=
  ∀ (c size : Nat) (r : Ring) (fs : List (List Byte)), r.indexed c → r.slots.length = c → r.count = 0 →
    (∀ t ∈ r.slots, t.fb.length = size) → (∀ f ∈ fs, f.length ≤ size) →
    (fs.foldl (Ring.push c) r).frames c = fs.drop (fs.length - c)

/-- 10_state.md R32, 41_ring.md R143: nothing changes the ring but RING_PUSH, POP_NOTIF's RING_POP and reset. -/
def Obligations.OnlyPushAndPopChangeTheRing : Prop :=
  ∀ (s : State) (e : Input), (s.move e).ring ≠ s.ring →
    e = .reset ∨
    (e = .seq ∧ ∃ cmd f, s.phase = .busy cmd (.oobPush f) ∧ (s.move e).ring = s.ring.push s.build.ringCapacity f) ∨
    (e = .seq ∧ s.phase = .busy .popNotif .popRing ∧ (s.move e).ring = s.ring.dropOldest s.build.ringCapacity)

/-! ## Configuration -/

/-- 44_control.md R240, R242-R247: CFG_READ answers the register at each assigned index, most significant byte first,
Param at every other, and changes nothing but RESULT. -/
def Obligations.CfgReadAnswersTheRegister : Prop :=
  (∀ i1 i0 : Byte, decode [0x30, i1, i0] = .ok (.cfgRead (i1 ++ i0))) ∧
  ∀ s : State, s.ready →
    exec (.cfgRead 0x0000) s = .next (s.answered .ok (be32Bytes s.statusWord)) ∧
    exec (.cfgRead 0x0001) s = .next (s.answered .ok (be32Bytes s.respTimeoutMs)) ∧
    exec (.cfgRead 0x0002) s = .next (s.answered .ok (be32Bytes s.reqDelayMs)) ∧
    exec (.cfgRead 0x0003) s = .next (s.answered .ok [0, 0, 0, if s.release then 1 else 0]) ∧
    exec (.cfgRead 0x0004) s = .next (s.answered .ok (be32Bytes (BitVec.ofNat 32 s.build.ringCapacity))) ∧
    exec (.cfgRead 0x0005) s = .next (s.answered .ok (be32Bytes (BitVec.ofNat 32 s.build.maxResponseLen))) ∧
    exec (.cfgRead 0x0006) s = .next (s.answered .ok (be32Bytes (BitVec.ofNat 32 s.build.maxRequestLen))) ∧
    exec (.cfgRead 0x0007) s = .next (s.answered .ok (be32Bytes (BitVec.ofNat 32 s.build.maxOobPayload))) ∧
    exec (.cfgRead 0x0008) s = .next (s.answered .ok (be32Bytes s.build.channelReadTimeoutMs)) ∧
    (∀ c : Byte,
      exec (.cfgRead (0x0100 + c.setWidth 16)) s = .next
        (s.answered .ok (match s.build.oobLen c with
          | none => [0, 0, 0, 0]
          | some e => [0, 0, 1, BitVec.ofNat 8 e]))) ∧
    (∀ idx : CfgIndex, (0x0009 ≤ idx ∧ idx ≤ 0x00FF) ∨ 0x0200 ≤ idx →
      exec (.cfgRead idx) s = .next (s.answered .param []))

/-- 44_control.md R241: every bit of STATUS. -/
def Obligations.StatusShowsItsFields : Prop :=
  ∀ s : State,
    s.statusWord.getLsbD 0 = s.connected ∧
    s.statusWord.getLsbD 1 = decide (s.pendingId ≠ 0) ∧
    s.statusWord.getLsbD 2 = s.matched ∧
    s.statusWord.getLsbD 3 = decide (s.dir = .toDevice) ∧
    s.statusWord.getLsbD 4 = s.lastSendValid ∧
    s.statusWord.extractLsb' 5 3 = 0 ∧
    s.statusWord.extractLsb' 8 8 = s.pendingId ∧
    s.statusWord.extractLsb' 16 8 = BitVec.ofNat 8 s.ring.count ∧
    s.statusWord.extractLsb' 24 8 = 0

/-- 44_control.md R248: CFG_WRITE writes the two time registers whole and RELEASE from bit 0; at every other index it
answers Param and changes nothing but RESULT. -/
def Obligations.CfgWriteWritesTheWritableRegisters : Prop :=
  (∀ i1 i0 v3 v2 v1 v0 : Byte,
    decode [0x31, i1, i0, v3, v2, v1, v0] = .ok (.cfgWrite (i1 ++ i0) (v3 ++ v2 ++ v1 ++ v0))) ∧
  ∀ (s : State) (v : CfgWord), s.ready →
    exec (.cfgWrite 0x0001 v) s = .next (State.answered { s with respTimeoutMs := v } .ok []) ∧
    exec (.cfgWrite 0x0002 v) s = .next (State.answered { s with reqDelayMs := v } .ok []) ∧
    exec (.cfgWrite 0x0003 v) s = .next (State.answered { s with release := v.getLsbD 0 } .ok []) ∧
    (∀ idx : CfgIndex, idx = 0x0000 ∨ 0x0004 ≤ idx →
      exec (.cfgWrite idx v) s = .next (s.answered .param []))

/-! ## The machine -/

/-- 10_state.md R36, R21: a step whose next move is the host's record of a command runs that command. -/
def Obligations.StepRunsTheDecodedCommand : Prop :=
  ∀ (s : State) (bytes : List Byte) (rest : List Input) (i : Instr), s.phase = .idle →
    s.inputs = .command bytes :: rest → decode bytes = .ok i →
    step s = exec i { s with inputs := rest }

/-- 10_state.md R36, 70_reset_and_hazards.md R291: a busy sequencer's step goes on with its command; an idle one with no
move to come waits in IDLE; an idle one lets another agent move. The order of moves is the model's (log entry 1), and so is
the step that enters an unending environment's next round of moves (log entry 21). -/
def Obligations.StepOtherwiseGoesOn : Prop :=
  (∀ (s : State) (i : Instr) (μ : Micro), s.phase = .busy i μ → step s = exec i s) ∧
  (∀ s : State, s.phase = .idle → s.inputs = [] → s.source = .ends → step s = .next s) ∧
  (∀ (s : State) (moves : List Input), s.inputs = [] → s.source = .cycle moves →
    step s = .next { s with inputs := moves }) ∧
  (∀ s : State, s.inputs = [] → s.source = .free →
    step s = .next { s with inputs := Config.schedule s.rounds, rounds := s.rounds + 1 }) ∧
  (∀ (s : State) (e : Input) (rest : List Input), s.phase = .idle → s.inputs = e :: rest →
    (∀ bytes, e ≠ .command bytes) → step s = .next (State.move { s with inputs := rest } e))

/-- 20_memory.md R69, R70, 00_scope.md R5, R10: what the line agents, the serializer and the clock do. R70 gives the
serializer no move with TX empty; that an entry for one then leaves the state as it is, is the model's choice (log
entry 15). -/
def Obligations.EnvironmentMovesFollowTheirRules : Prop :=
  ∀ s : State,
    (∀ side b, side ≠ s.dir → s.move (.arrive side b) = s) ∧
    (∀ b, s.rx.length < s.build.rxFifoDepth → s.move (.arrive s.dir b) = { s with rx := s.rx ++ [b] }) ∧
    (∀ b, s.build.rxFifoDepth ≤ s.rx.length → s.move (.arrive s.dir b) = s) ∧
    (∀ b bs, s.tx = b :: bs →
      s.move .emit = { s with tx := bs, history := s.history ++ [.wire s.dir b] }) ∧
    (s.tx = [] → s.move .emit = s) ∧
    (∀ ms, s.move (.tick ms) = { s with now := s.now + ms })

/-- 70_reset_and_hazards.md R290: reset, at any micro-step boundary, ends the command in progress without a RESULT, gives
the registers their reset values, discards TX, and leaves what was emitted. That a record of SEL's own change to the
console is all that is added to the outputs is log entry 7 (DEDUCED). -/
def Obligations.ResetAbortsTheCommand : Prop :=
  ∀ (s t : State), t = s.move .reset →
    t.connected = false ∧ t.pendingId = 0 ∧ t.expectedLen = 0 ∧ t.matched = false ∧ t.lastSendValid = false ∧
    t.dir = .toConsole ∧ t.ring.rd = 0 ∧ t.ring.wr = 0 ∧ t.ring.count = 0 ∧ t.rx = [] ∧ t.tx = [] ∧
    t.phase = .idle ∧ t.result = none ∧ t.respTimeoutMs = s.build.resetRespTimeoutMs ∧
    t.reqDelayMs = s.build.resetReqDelayMs ∧ t.release = s.build.resetRelease ∧
    (∃ sel, t.history = s.history ++ sel ∧ ∀ e ∈ sel, e = .sel .toConsole)

/-- 70_reset_and_hazards.md R291: the state after reset, where the spec gives a value; of the contents R291 calls
unspecified nothing is said. -/
def Obligations.ResetStateHasTheStatedValues : Prop :=
  State.reset.connected = false ∧ State.reset.pendingId = 0 ∧ State.reset.expectedLen = 0 ∧
  State.reset.matched = false ∧ State.reset.lastSendValid = false ∧ State.reset.dir = .toConsole ∧
  State.reset.ring.rd = 0 ∧ State.reset.ring.wr = 0 ∧ State.reset.ring.count = 0 ∧
  State.reset.rx = [] ∧ State.reset.tx = [] ∧ State.reset.phase = .idle ∧ State.reset.result = none ∧
  State.reset.respTimeoutMs = State.reset.build.resetRespTimeoutMs ∧
  State.reset.reqDelayMs = State.reset.build.resetReqDelayMs ∧
  State.reset.release = State.reset.build.resetRelease ∧ State.reset.ctrlWord.extractLsb' 1 31 = 0

/-- 70_reset_and_hazards.md R291, 10_state.md R25, R32, R33, 43_transport.md R189: the reset state is sound
(`State.Inv`: the spec's invariants, the storage's sizes, and what each position of a running command implies). -/
def Obligations.InvariantHoldsAtReset : Prop := State.reset.Inv

/-- 10_state.md R25, R32-R35, 43_transport.md R189: every move of every agent, at every micro-step boundary, keeps a sound
state sound. -/
def Obligations.EveryMoveKeepsTheInvariant : Prop :=
  ∀ (s : State) (e : Input), s.Inv → (s.move e).Inv

/-- 10_state.md R25, R32-R35, 43_transport.md R189: a whole step keeps a sound state sound, whatever the environment does
in it. -/
def Obligations.EveryStepKeepsTheInvariant : Prop :=
  ∀ s t : State, s.Inv → step s = .next t → t.Inv

/-- 00_scope.md R11, 60_exceptions.md R268: a command the environment leaves alone either ends or comes to rest at a
`Wait()` (log entry 2); no bound of the model's cuts it short. -/
def Obligations.QuietCommandsEndOrWait : Prop :=
  ∀ (i : Instr) (s t : State), QuietInputs s.source s.inputs → exec i s = .next t →
    t.phase = .idle ∨ ∃ back, t.phase = .busy i (.wait back)

/-- 60_exceptions.md R261: no command traps: from IDLE every command answers a next state, in every environment, and a
step of the machine is never refused. That a command which has not ended, or never ends (70_reset_and_hazards.md R303),
answers the state at a Wait or at the end of a round of moves is the model's choice (log entries 2 and 21). -/
def Obligations.EveryIssuedCommandHasANextState : Prop :=
  (∀ (i : Instr) (s : State), s.phase = .idle → ∃ t, exec i s = .next t) ∧
  (∀ (s : State) (r : Refusal), step s ≠ .refused r)

/-- 10_state.md R39, R40, 70_reset_and_hazards.md R290: whatever happens in a step, the build parameters are as they were
and what has been output stays output. -/
def Obligations.StepKeepsTheBuildAndTheOutputs : Prop :=
  ∀ s t : State, step s = .next t → t.build = s.build ∧ ∃ more, t.history = s.history ++ more
end

