-- ==== Sys2Proof/Laws/Decode.lean ====
section
/-! SUPPORT. The field readers against the field writers of the serialization (30_encoding.md R98, R99), said once each. -/

namespace Sys2Proof

theorem takeExact_append (d rest : List Byte) : takeExact d.length (d ++ rest) = some (d, rest) := by
  induction d with
  | nil => cases rest <;> rfl
  | cons a d ih => simp [takeExact, ih]

/-- What `takeExact` answers is the first `n` bytes and the others. -/
theorem takeExact_some : ∀ (n : Nat) (bs d rest : List Byte), takeExact n bs = some (d, rest) →
    d.length = n ∧ bs = d ++ rest := by
  intro n
  induction n with
  | zero => intro bs d r h; cases bs <;> simp_all [takeExact]
  | succ n ih =>
    intro bs d r h
    cases bs with
    | nil => simp [takeExact] at h
    | cons b bs =>
      simp only [takeExact, Option.map_eq_some_iff, Prod.mk.injEq, Prod.exists] at h
      obtain ⟨a, _, h1, rfl, rfl⟩ := h
      simp [ih _ _ _ h1]

theorem be16_extract (v : BitVec 16) : be16 (v.extractLsb' 8 8) (v.extractLsb' 0 8) = v := by
  apply BitVec.eq_of_getLsbD_eq; intro i hi
  simp only [be16, BitVec.getLsbD_append, BitVec.getLsbD_extractLsb']
  split
  · simp_all
  · rw [show 8 + (i - 8) = i by omega]; simp; intro; omega

theorem be32_extract (v : BitVec 32) :
    be32 (v.extractLsb' 24 8) (v.extractLsb' 16 8) (v.extractLsb' 8 8) (v.extractLsb' 0 8) = v := by
  apply BitVec.eq_of_getLsbD_eq; intro i hi
  simp only [be32, BitVec.getLsbD_append, BitVec.getLsbD_extractLsb']
  split
  · simp_all
  · split
    · rw [show 8 + (i - 8) = i by omega]; simp; intro; omega
    · split
      · rw [show 16 + (i - 8 - 8) = i by omega]; simp; intro; omega
      · rw [show 24 + (i - 8 - 8 - 8) = i by omega]; simp; intro; omega

theorem be16Bytes_be16 (a b : Byte) : be16Bytes (be16 a b) = [a, b] := by
  simp only [be16Bytes, be16, List.cons.injEq, and_true]
  constructor <;> apply BitVec.eq_of_getLsbD_eq <;> intro i hi <;>
    simp only [BitVec.getLsbD_append, BitVec.getLsbD_extractLsb', hi]
  · simp
  · simp [hi]

theorem be32Bytes_be32 (a b c d : Byte) : be32Bytes (be32 a b c d) = [a, b, c, d] := by
  simp only [be32Bytes, be32, List.cons.injEq, and_true]
  refine ⟨?_, ?_, ?_, ?_⟩ <;> apply BitVec.eq_of_getLsbD_eq <;> intro i hi <;>
    simp only [BitVec.getLsbD_append, BitVec.getLsbD_extractLsb', hi]
  · simp; rw [if_neg (by omega), if_neg (by omega), if_neg (by omega)]; congr 1; omega
  · simp; rw [if_neg (by omega), if_neg (by omega), if_pos (by omega)]; congr 1; omega
  · simp; intro; omega
  · simp [hi]

end Sys2Proof
end

