-- ==== Sys2Proof/Laws/State.lean ====
section
/-! SUPPORT. What each state update does to each field: one lemma per field per update. -/

namespace Sys2Proof.Machine

@[simp] theorem Phase.moveTo_idle (μ : Micro) : Phase.moveTo .idle μ = .idle := rfl

@[simp] theorem Phase.moveTo_busy (i : Instr) (μ ν : Micro) : Phase.moveTo (.busy i μ) ν = .busy i ν := rfl

variable (s : State)

/-! ## goto -/

@[simp] theorem State.goto_build (μ : Micro) : (s.goto μ).build = s.build := rfl
@[simp] theorem State.goto_connected (μ : Micro) : (s.goto μ).connected = s.connected := rfl
@[simp] theorem State.goto_pendingId (μ : Micro) : (s.goto μ).pendingId = s.pendingId := rfl
@[simp] theorem State.goto_expectedLen (μ : Micro) : (s.goto μ).expectedLen = s.expectedLen := rfl
@[simp] theorem State.goto_matched (μ : Micro) : (s.goto μ).matched = s.matched := rfl
@[simp] theorem State.goto_respBuf (μ : Micro) : (s.goto μ).respBuf = s.respBuf := rfl
@[simp] theorem State.goto_lastSend (μ : Micro) : (s.goto μ).lastSend = s.lastSend := rfl
@[simp] theorem State.goto_lastSendValid (μ : Micro) : (s.goto μ).lastSendValid = s.lastSendValid := rfl
@[simp] theorem State.goto_getT0 (μ : Micro) : (s.goto μ).getT0 = s.getT0 := rfl
@[simp] theorem State.goto_now (μ : Micro) : (s.goto μ).now = s.now := rfl
@[simp] theorem State.goto_dir (μ : Micro) : (s.goto μ).dir = s.dir := rfl
@[simp] theorem State.goto_ring (μ : Micro) : (s.goto μ).ring = s.ring := rfl
@[simp] theorem State.goto_rx (μ : Micro) : (s.goto μ).rx = s.rx := rfl
@[simp] theorem State.goto_tx (μ : Micro) : (s.goto μ).tx = s.tx := rfl
@[simp] theorem State.goto_phase (μ : Micro) : (s.goto μ).phase = s.phase.moveTo μ := rfl
@[simp] theorem State.goto_result (μ : Micro) : (s.goto μ).result = s.result := rfl
@[simp] theorem State.goto_respTimeoutMs (μ : Micro) : (s.goto μ).respTimeoutMs = s.respTimeoutMs := rfl
@[simp] theorem State.goto_reqDelayMs (μ : Micro) : (s.goto μ).reqDelayMs = s.reqDelayMs := rfl
@[simp] theorem State.goto_release (μ : Micro) : (s.goto μ).release = s.release := rfl
@[simp] theorem State.goto_history (μ : Micro) : (s.goto μ).history = s.history := rfl
@[simp] theorem State.goto_inputs (μ : Micro) : (s.goto μ).inputs = s.inputs := rfl
@[simp] theorem State.goto_source (μ : Micro) : (s.goto μ).source = s.source := rfl
@[simp] theorem State.goto_rounds (μ : Micro) : (s.goto μ).rounds = s.rounds := rfl

/-! ## stuck -/

@[simp] theorem State.stuck_build (μ : Micro) : (s.stuck μ).build = s.build := rfl
@[simp] theorem State.stuck_connected (μ : Micro) : (s.stuck μ).connected = s.connected := rfl
@[simp] theorem State.stuck_pendingId (μ : Micro) : (s.stuck μ).pendingId = s.pendingId := rfl
@[simp] theorem State.stuck_expectedLen (μ : Micro) : (s.stuck μ).expectedLen = s.expectedLen := rfl
@[simp] theorem State.stuck_matched (μ : Micro) : (s.stuck μ).matched = s.matched := rfl
@[simp] theorem State.stuck_respBuf (μ : Micro) : (s.stuck μ).respBuf = s.respBuf := rfl
@[simp] theorem State.stuck_lastSend (μ : Micro) : (s.stuck μ).lastSend = s.lastSend := rfl
@[simp] theorem State.stuck_lastSendValid (μ : Micro) : (s.stuck μ).lastSendValid = s.lastSendValid := rfl
@[simp] theorem State.stuck_getT0 (μ : Micro) : (s.stuck μ).getT0 = s.getT0 := rfl
@[simp] theorem State.stuck_now (μ : Micro) : (s.stuck μ).now = s.now := rfl
@[simp] theorem State.stuck_dir (μ : Micro) : (s.stuck μ).dir = s.dir := rfl
@[simp] theorem State.stuck_ring (μ : Micro) : (s.stuck μ).ring = s.ring := rfl
@[simp] theorem State.stuck_rx (μ : Micro) : (s.stuck μ).rx = s.rx := rfl
@[simp] theorem State.stuck_tx (μ : Micro) : (s.stuck μ).tx = s.tx := rfl
@[simp] theorem State.stuck_phase (μ : Micro) : (s.stuck μ).phase = s.phase.moveTo (.wait μ) := rfl
@[simp] theorem State.stuck_result (μ : Micro) : (s.stuck μ).result = s.result := rfl
@[simp] theorem State.stuck_respTimeoutMs (μ : Micro) : (s.stuck μ).respTimeoutMs = s.respTimeoutMs := rfl
@[simp] theorem State.stuck_reqDelayMs (μ : Micro) : (s.stuck μ).reqDelayMs = s.reqDelayMs := rfl
@[simp] theorem State.stuck_release (μ : Micro) : (s.stuck μ).release = s.release := rfl
@[simp] theorem State.stuck_history (μ : Micro) : (s.stuck μ).history = s.history := rfl
@[simp] theorem State.stuck_inputs (μ : Micro) : (s.stuck μ).inputs = s.inputs := rfl
@[simp] theorem State.stuck_source (μ : Micro) : (s.stuck μ).source = s.source := rfl
@[simp] theorem State.stuck_rounds (μ : Micro) : (s.stuck μ).rounds = s.rounds := rfl

/-! ## finish -/

@[simp] theorem State.finish_build (st : Status) (data : List Byte) : (s.finish st data).build = s.build := rfl
@[simp] theorem State.finish_connected (st : Status) (data : List Byte) :
    (s.finish st data).connected = s.connected := rfl
@[simp] theorem State.finish_pendingId (st : Status) (data : List Byte) :
    (s.finish st data).pendingId = s.pendingId := rfl
@[simp] theorem State.finish_expectedLen (st : Status) (data : List Byte) :
    (s.finish st data).expectedLen = s.expectedLen := rfl
@[simp] theorem State.finish_matched (st : Status) (data : List Byte) : (s.finish st data).matched = s.matched := rfl
@[simp] theorem State.finish_respBuf (st : Status) (data : List Byte) : (s.finish st data).respBuf = s.respBuf := rfl
@[simp] theorem State.finish_lastSend (st : Status) (data : List Byte) :
    (s.finish st data).lastSend = s.lastSend := rfl
@[simp] theorem State.finish_lastSendValid (st : Status) (data : List Byte) :
    (s.finish st data).lastSendValid = s.lastSendValid := rfl
@[simp] theorem State.finish_getT0 (st : Status) (data : List Byte) : (s.finish st data).getT0 = s.getT0 := rfl
@[simp] theorem State.finish_now (st : Status) (data : List Byte) : (s.finish st data).now = s.now := rfl
@[simp] theorem State.finish_dir (st : Status) (data : List Byte) : (s.finish st data).dir = s.dir := rfl
@[simp] theorem State.finish_ring (st : Status) (data : List Byte) : (s.finish st data).ring = s.ring := rfl
@[simp] theorem State.finish_rx (st : Status) (data : List Byte) : (s.finish st data).rx = s.rx := rfl
@[simp] theorem State.finish_tx (st : Status) (data : List Byte) : (s.finish st data).tx = s.tx := rfl
@[simp] theorem State.finish_phase (st : Status) (data : List Byte) : (s.finish st data).phase = .idle := rfl
@[simp] theorem State.finish_result (st : Status) (data : List Byte) :
    (s.finish st data).result = some ⟨st, data⟩ := rfl
@[simp] theorem State.finish_respTimeoutMs (st : Status) (data : List Byte) :
    (s.finish st data).respTimeoutMs = s.respTimeoutMs := rfl
@[simp] theorem State.finish_reqDelayMs (st : Status) (data : List Byte) :
    (s.finish st data).reqDelayMs = s.reqDelayMs := rfl
@[simp] theorem State.finish_release (st : Status) (data : List Byte) : (s.finish st data).release = s.release := rfl
@[simp] theorem State.finish_history (st : Status) (data : List Byte) :
    (s.finish st data).history = s.history ++ [.result ⟨st, data⟩] := rfl
@[simp] theorem State.finish_inputs (st : Status) (data : List Byte) : (s.finish st data).inputs = s.inputs := rfl
@[simp] theorem State.finish_source (st : Status) (data : List Byte) : (s.finish st data).source = s.source := rfl
@[simp] theorem State.finish_rounds (st : Status) (data : List Byte) : (s.finish st data).rounds = s.rounds := rfl

/-! ## raise -/

@[simp] theorem State.raise_build (st : Status) : (s.raise st).build = s.build := rfl
@[simp] theorem State.raise_connected (st : Status) : (s.raise st).connected = s.connected := rfl
@[simp] theorem State.raise_pendingId (st : Status) : (s.raise st).pendingId = s.pendingId := rfl
@[simp] theorem State.raise_expectedLen (st : Status) : (s.raise st).expectedLen = s.expectedLen := rfl
@[simp] theorem State.raise_matched (st : Status) : (s.raise st).matched = s.matched := rfl
@[simp] theorem State.raise_respBuf (st : Status) : (s.raise st).respBuf = s.respBuf := rfl
@[simp] theorem State.raise_lastSend (st : Status) : (s.raise st).lastSend = s.lastSend := rfl
@[simp] theorem State.raise_lastSendValid (st : Status) : (s.raise st).lastSendValid = s.lastSendValid := rfl
@[simp] theorem State.raise_getT0 (st : Status) : (s.raise st).getT0 = s.getT0 := rfl
@[simp] theorem State.raise_now (st : Status) : (s.raise st).now = s.now := rfl
@[simp] theorem State.raise_dir (st : Status) : (s.raise st).dir = s.dir := rfl
@[simp] theorem State.raise_ring (st : Status) : (s.raise st).ring = s.ring := rfl
@[simp] theorem State.raise_rx (st : Status) : (s.raise st).rx = s.rx := rfl
@[simp] theorem State.raise_tx (st : Status) : (s.raise st).tx = s.tx := rfl
@[simp] theorem State.raise_phase (st : Status) : (s.raise st).phase = .idle := rfl
@[simp] theorem State.raise_result (st : Status) : (s.raise st).result = some ⟨st, []⟩ := rfl
@[simp] theorem State.raise_respTimeoutMs (st : Status) : (s.raise st).respTimeoutMs = s.respTimeoutMs := rfl
@[simp] theorem State.raise_reqDelayMs (st : Status) : (s.raise st).reqDelayMs = s.reqDelayMs := rfl
@[simp] theorem State.raise_release (st : Status) : (s.raise st).release = s.release := rfl
@[simp] theorem State.raise_history (st : Status) : (s.raise st).history = s.history ++ [.result ⟨st, []⟩] := rfl
@[simp] theorem State.raise_inputs (st : Status) : (s.raise st).inputs = s.inputs := rfl
@[simp] theorem State.raise_source (st : Status) : (s.raise st).source = s.source := rfl
@[simp] theorem State.raise_rounds (st : Status) : (s.raise st).rounds = s.rounds := rfl

/-! ## clearPending -/

@[simp] theorem State.clearPending_build : (s.clearPending).build = s.build := rfl
@[simp] theorem State.clearPending_connected : (s.clearPending).connected = s.connected := rfl
@[simp] theorem State.clearPending_pendingId : (s.clearPending).pendingId = 0 := rfl
@[simp] theorem State.clearPending_expectedLen : (s.clearPending).expectedLen = 0 := rfl
@[simp] theorem State.clearPending_matched : (s.clearPending).matched = false := rfl
@[simp] theorem State.clearPending_respBuf : (s.clearPending).respBuf = s.respBuf := rfl
@[simp] theorem State.clearPending_lastSend : (s.clearPending).lastSend = s.lastSend := rfl
@[simp] theorem State.clearPending_lastSendValid : (s.clearPending).lastSendValid = s.lastSendValid := rfl
@[simp] theorem State.clearPending_getT0 : (s.clearPending).getT0 = s.getT0 := rfl
@[simp] theorem State.clearPending_now : (s.clearPending).now = s.now := rfl
@[simp] theorem State.clearPending_dir : (s.clearPending).dir = s.dir := rfl
@[simp] theorem State.clearPending_ring : (s.clearPending).ring = s.ring := rfl
@[simp] theorem State.clearPending_rx : (s.clearPending).rx = s.rx := rfl
@[simp] theorem State.clearPending_tx : (s.clearPending).tx = s.tx := rfl
@[simp] theorem State.clearPending_phase : (s.clearPending).phase = s.phase := rfl
@[simp] theorem State.clearPending_result : (s.clearPending).result = s.result := rfl
@[simp] theorem State.clearPending_respTimeoutMs : (s.clearPending).respTimeoutMs = s.respTimeoutMs := rfl
@[simp] theorem State.clearPending_reqDelayMs : (s.clearPending).reqDelayMs = s.reqDelayMs := rfl
@[simp] theorem State.clearPending_release : (s.clearPending).release = s.release := rfl
@[simp] theorem State.clearPending_history : (s.clearPending).history = s.history := rfl
@[simp] theorem State.clearPending_inputs : (s.clearPending).inputs = s.inputs := rfl
@[simp] theorem State.clearPending_source : (s.clearPending).source = s.source := rfl
@[simp] theorem State.clearPending_rounds : (s.clearPending).rounds = s.rounds := rfl

/-! ## logEvent -/

@[simp] theorem State.logEvent_build (kind : LogKind) (id : Byte) : (s.logEvent kind id).build = s.build := rfl
@[simp] theorem State.logEvent_connected (kind : LogKind) (id : Byte) :
    (s.logEvent kind id).connected = s.connected := rfl
@[simp] theorem State.logEvent_pendingId (kind : LogKind) (id : Byte) :
    (s.logEvent kind id).pendingId = s.pendingId := rfl
@[simp] theorem State.logEvent_expectedLen (kind : LogKind) (id : Byte) :
    (s.logEvent kind id).expectedLen = s.expectedLen := rfl
@[simp] theorem State.logEvent_matched (kind : LogKind) (id : Byte) : (s.logEvent kind id).matched = s.matched := rfl
@[simp] theorem State.logEvent_respBuf (kind : LogKind) (id : Byte) : (s.logEvent kind id).respBuf = s.respBuf := rfl
@[simp] theorem State.logEvent_lastSend (kind : LogKind) (id : Byte) :
    (s.logEvent kind id).lastSend = s.lastSend := rfl
@[simp] theorem State.logEvent_lastSendValid (kind : LogKind) (id : Byte) :
    (s.logEvent kind id).lastSendValid = s.lastSendValid := rfl
@[simp] theorem State.logEvent_getT0 (kind : LogKind) (id : Byte) : (s.logEvent kind id).getT0 = s.getT0 := rfl
@[simp] theorem State.logEvent_now (kind : LogKind) (id : Byte) : (s.logEvent kind id).now = s.now := rfl
@[simp] theorem State.logEvent_dir (kind : LogKind) (id : Byte) : (s.logEvent kind id).dir = s.dir := rfl
@[simp] theorem State.logEvent_ring (kind : LogKind) (id : Byte) : (s.logEvent kind id).ring = s.ring := rfl
@[simp] theorem State.logEvent_rx (kind : LogKind) (id : Byte) : (s.logEvent kind id).rx = s.rx := rfl
@[simp] theorem State.logEvent_tx (kind : LogKind) (id : Byte) : (s.logEvent kind id).tx = s.tx := rfl
@[simp] theorem State.logEvent_phase (kind : LogKind) (id : Byte) : (s.logEvent kind id).phase = s.phase := rfl
@[simp] theorem State.logEvent_result (kind : LogKind) (id : Byte) : (s.logEvent kind id).result = s.result := rfl
@[simp] theorem State.logEvent_respTimeoutMs (kind : LogKind) (id : Byte) :
    (s.logEvent kind id).respTimeoutMs = s.respTimeoutMs := rfl
@[simp] theorem State.logEvent_reqDelayMs (kind : LogKind) (id : Byte) :
    (s.logEvent kind id).reqDelayMs = s.reqDelayMs := rfl
@[simp] theorem State.logEvent_release (kind : LogKind) (id : Byte) : (s.logEvent kind id).release = s.release := rfl
@[simp] theorem State.logEvent_history (kind : LogKind) (id : Byte) :
    (s.logEvent kind id).history = s.history ++ [.log kind id] := rfl
@[simp] theorem State.logEvent_inputs (kind : LogKind) (id : Byte) : (s.logEvent kind id).inputs = s.inputs := rfl
@[simp] theorem State.logEvent_source (kind : LogKind) (id : Byte) : (s.logEvent kind id).source = s.source := rfl
@[simp] theorem State.logEvent_rounds (kind : LogKind) (id : Byte) : (s.logEvent kind id).rounds = s.rounds := rfl

/-! ## rxDiscard -/

@[simp] theorem State.rxDiscard_build : (s.rxDiscard).build = s.build := rfl
@[simp] theorem State.rxDiscard_connected : (s.rxDiscard).connected = s.connected := rfl
@[simp] theorem State.rxDiscard_pendingId : (s.rxDiscard).pendingId = s.pendingId := rfl
@[simp] theorem State.rxDiscard_expectedLen : (s.rxDiscard).expectedLen = s.expectedLen := rfl
@[simp] theorem State.rxDiscard_matched : (s.rxDiscard).matched = s.matched := rfl
@[simp] theorem State.rxDiscard_respBuf : (s.rxDiscard).respBuf = s.respBuf := rfl
@[simp] theorem State.rxDiscard_lastSend : (s.rxDiscard).lastSend = s.lastSend := rfl
@[simp] theorem State.rxDiscard_lastSendValid : (s.rxDiscard).lastSendValid = s.lastSendValid := rfl
@[simp] theorem State.rxDiscard_getT0 : (s.rxDiscard).getT0 = s.getT0 := rfl
@[simp] theorem State.rxDiscard_now : (s.rxDiscard).now = s.now := rfl
@[simp] theorem State.rxDiscard_dir : (s.rxDiscard).dir = s.dir := rfl
@[simp] theorem State.rxDiscard_ring : (s.rxDiscard).ring = s.ring := rfl
@[simp] theorem State.rxDiscard_rx : (s.rxDiscard).rx = [] := rfl
@[simp] theorem State.rxDiscard_tx : (s.rxDiscard).tx = s.tx := rfl
@[simp] theorem State.rxDiscard_phase : (s.rxDiscard).phase = s.phase := rfl
@[simp] theorem State.rxDiscard_result : (s.rxDiscard).result = s.result := rfl
@[simp] theorem State.rxDiscard_respTimeoutMs : (s.rxDiscard).respTimeoutMs = s.respTimeoutMs := rfl
@[simp] theorem State.rxDiscard_reqDelayMs : (s.rxDiscard).reqDelayMs = s.reqDelayMs := rfl
@[simp] theorem State.rxDiscard_release : (s.rxDiscard).release = s.release := rfl
@[simp] theorem State.rxDiscard_history : (s.rxDiscard).history = s.history := rfl
@[simp] theorem State.rxDiscard_inputs : (s.rxDiscard).inputs = s.inputs := rfl
@[simp] theorem State.rxDiscard_source : (s.rxDiscard).source = s.source := rfl
@[simp] theorem State.rxDiscard_rounds : (s.rxDiscard).rounds = s.rounds := rfl

/-! ## txAppend -/

@[simp] theorem State.txAppend_build (b : Byte) : (s.txAppend b).build = s.build := rfl
@[simp] theorem State.txAppend_connected (b : Byte) : (s.txAppend b).connected = s.connected := rfl
@[simp] theorem State.txAppend_pendingId (b : Byte) : (s.txAppend b).pendingId = s.pendingId := rfl
@[simp] theorem State.txAppend_expectedLen (b : Byte) : (s.txAppend b).expectedLen = s.expectedLen := rfl
@[simp] theorem State.txAppend_matched (b : Byte) : (s.txAppend b).matched = s.matched := rfl
@[simp] theorem State.txAppend_respBuf (b : Byte) : (s.txAppend b).respBuf = s.respBuf := rfl
@[simp] theorem State.txAppend_lastSend (b : Byte) : (s.txAppend b).lastSend = s.lastSend := rfl
@[simp] theorem State.txAppend_lastSendValid (b : Byte) : (s.txAppend b).lastSendValid = s.lastSendValid := rfl
@[simp] theorem State.txAppend_getT0 (b : Byte) : (s.txAppend b).getT0 = s.getT0 := rfl
@[simp] theorem State.txAppend_now (b : Byte) : (s.txAppend b).now = s.now := rfl
@[simp] theorem State.txAppend_dir (b : Byte) : (s.txAppend b).dir = s.dir := rfl
@[simp] theorem State.txAppend_ring (b : Byte) : (s.txAppend b).ring = s.ring := rfl
@[simp] theorem State.txAppend_rx (b : Byte) : (s.txAppend b).rx = s.rx := rfl
@[simp] theorem State.txAppend_tx (b : Byte) : (s.txAppend b).tx = s.tx ++ [b] := rfl
@[simp] theorem State.txAppend_phase (b : Byte) : (s.txAppend b).phase = s.phase := rfl
@[simp] theorem State.txAppend_result (b : Byte) : (s.txAppend b).result = s.result := rfl
@[simp] theorem State.txAppend_respTimeoutMs (b : Byte) : (s.txAppend b).respTimeoutMs = s.respTimeoutMs := rfl
@[simp] theorem State.txAppend_reqDelayMs (b : Byte) : (s.txAppend b).reqDelayMs = s.reqDelayMs := rfl
@[simp] theorem State.txAppend_release (b : Byte) : (s.txAppend b).release = s.release := rfl
@[simp] theorem State.txAppend_history (b : Byte) : (s.txAppend b).history = s.history := rfl
@[simp] theorem State.txAppend_inputs (b : Byte) : (s.txAppend b).inputs = s.inputs := rfl
@[simp] theorem State.txAppend_source (b : Byte) : (s.txAppend b).source = s.source := rfl
@[simp] theorem State.txAppend_rounds (b : Byte) : (s.txAppend b).rounds = s.rounds := rfl

/-! ## tick -/

@[simp] theorem State.tick_build (ms : Time) : (s.tick ms).build = s.build := rfl
@[simp] theorem State.tick_connected (ms : Time) : (s.tick ms).connected = s.connected := rfl
@[simp] theorem State.tick_pendingId (ms : Time) : (s.tick ms).pendingId = s.pendingId := rfl
@[simp] theorem State.tick_expectedLen (ms : Time) : (s.tick ms).expectedLen = s.expectedLen := rfl
@[simp] theorem State.tick_matched (ms : Time) : (s.tick ms).matched = s.matched := rfl
@[simp] theorem State.tick_respBuf (ms : Time) : (s.tick ms).respBuf = s.respBuf := rfl
@[simp] theorem State.tick_lastSend (ms : Time) : (s.tick ms).lastSend = s.lastSend := rfl
@[simp] theorem State.tick_lastSendValid (ms : Time) : (s.tick ms).lastSendValid = s.lastSendValid := rfl
@[simp] theorem State.tick_getT0 (ms : Time) : (s.tick ms).getT0 = s.getT0 := rfl
@[simp] theorem State.tick_now (ms : Time) : (s.tick ms).now = s.now + ms := rfl
@[simp] theorem State.tick_dir (ms : Time) : (s.tick ms).dir = s.dir := rfl
@[simp] theorem State.tick_ring (ms : Time) : (s.tick ms).ring = s.ring := rfl
@[simp] theorem State.tick_rx (ms : Time) : (s.tick ms).rx = s.rx := rfl
@[simp] theorem State.tick_tx (ms : Time) : (s.tick ms).tx = s.tx := rfl
@[simp] theorem State.tick_phase (ms : Time) : (s.tick ms).phase = s.phase := rfl
@[simp] theorem State.tick_result (ms : Time) : (s.tick ms).result = s.result := rfl
@[simp] theorem State.tick_respTimeoutMs (ms : Time) : (s.tick ms).respTimeoutMs = s.respTimeoutMs := rfl
@[simp] theorem State.tick_reqDelayMs (ms : Time) : (s.tick ms).reqDelayMs = s.reqDelayMs := rfl
@[simp] theorem State.tick_release (ms : Time) : (s.tick ms).release = s.release := rfl
@[simp] theorem State.tick_history (ms : Time) : (s.tick ms).history = s.history := rfl
@[simp] theorem State.tick_inputs (ms : Time) : (s.tick ms).inputs = s.inputs := rfl
@[simp] theorem State.tick_source (ms : Time) : (s.tick ms).source = s.source := rfl
@[simp] theorem State.tick_rounds (ms : Time) : (s.tick ms).rounds = s.rounds := rfl

/-! ## steer -/

@[simp] theorem State.steer_build (d : Direction) :
    (s.steer d).build = s.build := by unfold State.steer; split <;> simp_all
@[simp] theorem State.steer_connected (d : Direction) :
    (s.steer d).connected = s.connected := by unfold State.steer; split <;> simp_all
@[simp] theorem State.steer_pendingId (d : Direction) :
    (s.steer d).pendingId = s.pendingId := by unfold State.steer; split <;> simp_all
@[simp] theorem State.steer_expectedLen (d : Direction) :
    (s.steer d).expectedLen = s.expectedLen := by unfold State.steer; split <;> simp_all
@[simp] theorem State.steer_matched (d : Direction) :
    (s.steer d).matched = s.matched := by unfold State.steer; split <;> simp_all
@[simp] theorem State.steer_respBuf (d : Direction) :
    (s.steer d).respBuf = s.respBuf := by unfold State.steer; split <;> simp_all
@[simp] theorem State.steer_lastSend (d : Direction) :
    (s.steer d).lastSend = s.lastSend := by unfold State.steer; split <;> simp_all
@[simp] theorem State.steer_lastSendValid (d : Direction) :
    (s.steer d).lastSendValid = s.lastSendValid := by unfold State.steer; split <;> simp_all
@[simp] theorem State.steer_getT0 (d : Direction) :
    (s.steer d).getT0 = s.getT0 := by unfold State.steer; split <;> simp_all
@[simp] theorem State.steer_now (d : Direction) : (s.steer d).now = s.now := by unfold State.steer; split <;> simp_all
@[simp] theorem State.steer_dir (d : Direction) : (s.steer d).dir = d := by unfold State.steer; split <;> simp_all
@[simp] theorem State.steer_ring (d : Direction) :
    (s.steer d).ring = s.ring := by unfold State.steer; split <;> simp_all
@[simp] theorem State.steer_rx (d : Direction) : (s.steer d).rx = s.rx := by unfold State.steer; split <;> simp_all
@[simp] theorem State.steer_tx (d : Direction) : (s.steer d).tx = s.tx := by unfold State.steer; split <;> simp_all
@[simp] theorem State.steer_phase (d : Direction) :
    (s.steer d).phase = s.phase := by unfold State.steer; split <;> simp_all
@[simp] theorem State.steer_result (d : Direction) :
    (s.steer d).result = s.result := by unfold State.steer; split <;> simp_all
@[simp] theorem State.steer_respTimeoutMs (d : Direction) :
    (s.steer d).respTimeoutMs = s.respTimeoutMs := by unfold State.steer; split <;> simp_all
@[simp] theorem State.steer_reqDelayMs (d : Direction) :
    (s.steer d).reqDelayMs = s.reqDelayMs := by unfold State.steer; split <;> simp_all
@[simp] theorem State.steer_release (d : Direction) :
    (s.steer d).release = s.release := by unfold State.steer; split <;> simp_all
@[simp] theorem State.steer_history (d : Direction) :
    (s.steer d).history = s.history ++ (if s.dir = d then [] else [.sel d]) := by unfold State.steer; split <;> simp_all
@[simp] theorem State.steer_inputs (d : Direction) :
    (s.steer d).inputs = s.inputs := by unfold State.steer; split <;> simp_all
@[simp] theorem State.steer_source (d : Direction) :
    (s.steer d).source = s.source := by unfold State.steer; split <;> simp_all
@[simp] theorem State.steer_rounds (d : Direction) :
    (s.steer d).rounds = s.rounds := by unfold State.steer; split <;> simp_all

/-! ## arrive -/

@[simp] theorem State.arrive_build (side : Direction) (b : Byte) :
    (s.arrive side b).build = s.build := by unfold State.arrive; split <;> rfl
@[simp] theorem State.arrive_connected (side : Direction) (b : Byte) :
    (s.arrive side b).connected = s.connected := by unfold State.arrive; split <;> rfl
@[simp] theorem State.arrive_pendingId (side : Direction) (b : Byte) :
    (s.arrive side b).pendingId = s.pendingId := by unfold State.arrive; split <;> rfl
@[simp] theorem State.arrive_expectedLen (side : Direction) (b : Byte) :
    (s.arrive side b).expectedLen = s.expectedLen := by unfold State.arrive; split <;> rfl
@[simp] theorem State.arrive_matched (side : Direction) (b : Byte) :
    (s.arrive side b).matched = s.matched := by unfold State.arrive; split <;> rfl
@[simp] theorem State.arrive_respBuf (side : Direction) (b : Byte) :
    (s.arrive side b).respBuf = s.respBuf := by unfold State.arrive; split <;> rfl
@[simp] theorem State.arrive_lastSend (side : Direction) (b : Byte) :
    (s.arrive side b).lastSend = s.lastSend := by unfold State.arrive; split <;> rfl
@[simp] theorem State.arrive_lastSendValid (side : Direction) (b : Byte) :
    (s.arrive side b).lastSendValid = s.lastSendValid := by unfold State.arrive; split <;> rfl
@[simp] theorem State.arrive_getT0 (side : Direction) (b : Byte) :
    (s.arrive side b).getT0 = s.getT0 := by unfold State.arrive; split <;> rfl
@[simp] theorem State.arrive_now (side : Direction) (b : Byte) :
    (s.arrive side b).now = s.now := by unfold State.arrive; split <;> rfl
@[simp] theorem State.arrive_dir (side : Direction) (b : Byte) :
    (s.arrive side b).dir = s.dir := by unfold State.arrive; split <;> rfl
@[simp] theorem State.arrive_ring (side : Direction) (b : Byte) :
    (s.arrive side b).ring = s.ring := by unfold State.arrive; split <;> rfl
@[simp] theorem State.arrive_rx (side : Direction) (b : Byte) :
    (s.arrive side b).rx = if side = s.dir ∧ s.rx.length < s.build.rxFifoDepth then s.rx ++ [b] else s.rx := by unfold State.arrive; split <;> rfl
@[simp] theorem State.arrive_tx (side : Direction) (b : Byte) :
    (s.arrive side b).tx = s.tx := by unfold State.arrive; split <;> rfl
@[simp] theorem State.arrive_phase (side : Direction) (b : Byte) :
    (s.arrive side b).phase = s.phase := by unfold State.arrive; split <;> rfl
@[simp] theorem State.arrive_result (side : Direction) (b : Byte) :
    (s.arrive side b).result = s.result := by unfold State.arrive; split <;> rfl
@[simp] theorem State.arrive_respTimeoutMs (side : Direction) (b : Byte) :
    (s.arrive side b).respTimeoutMs = s.respTimeoutMs := by unfold State.arrive; split <;> rfl
@[simp] theorem State.arrive_reqDelayMs (side : Direction) (b : Byte) :
    (s.arrive side b).reqDelayMs = s.reqDelayMs := by unfold State.arrive; split <;> rfl
@[simp] theorem State.arrive_release (side : Direction) (b : Byte) :
    (s.arrive side b).release = s.release := by unfold State.arrive; split <;> rfl
@[simp] theorem State.arrive_history (side : Direction) (b : Byte) :
    (s.arrive side b).history = s.history := by unfold State.arrive; split <;> rfl
@[simp] theorem State.arrive_inputs (side : Direction) (b : Byte) :
    (s.arrive side b).inputs = s.inputs := by unfold State.arrive; split <;> rfl
@[simp] theorem State.arrive_source (side : Direction) (b : Byte) :
    (s.arrive side b).source = s.source := by unfold State.arrive; split <;> rfl
@[simp] theorem State.arrive_rounds (side : Direction) (b : Byte) :
    (s.arrive side b).rounds = s.rounds := by unfold State.arrive; split <;> rfl

/-! ## emit -/

@[simp] theorem State.emit_build : (s.emit).build = s.build := by unfold State.emit; split <;> simp_all
@[simp] theorem State.emit_connected : (s.emit).connected = s.connected := by unfold State.emit; split <;> simp_all
@[simp] theorem State.emit_pendingId : (s.emit).pendingId = s.pendingId := by unfold State.emit; split <;> simp_all
@[simp] theorem State.emit_expectedLen :
    (s.emit).expectedLen = s.expectedLen := by unfold State.emit; split <;> simp_all
@[simp] theorem State.emit_matched : (s.emit).matched = s.matched := by unfold State.emit; split <;> simp_all
@[simp] theorem State.emit_respBuf : (s.emit).respBuf = s.respBuf := by unfold State.emit; split <;> simp_all
@[simp] theorem State.emit_lastSend : (s.emit).lastSend = s.lastSend := by unfold State.emit; split <;> simp_all
@[simp] theorem State.emit_lastSendValid :
    (s.emit).lastSendValid = s.lastSendValid := by unfold State.emit; split <;> simp_all
@[simp] theorem State.emit_getT0 : (s.emit).getT0 = s.getT0 := by unfold State.emit; split <;> simp_all
@[simp] theorem State.emit_now : (s.emit).now = s.now := by unfold State.emit; split <;> simp_all
@[simp] theorem State.emit_dir : (s.emit).dir = s.dir := by unfold State.emit; split <;> simp_all
@[simp] theorem State.emit_ring : (s.emit).ring = s.ring := by unfold State.emit; split <;> simp_all
@[simp] theorem State.emit_rx : (s.emit).rx = s.rx := by unfold State.emit; split <;> simp_all
@[simp] theorem State.emit_tx : (s.emit).tx = s.tx.tail := by unfold State.emit; split <;> simp_all
@[simp] theorem State.emit_phase : (s.emit).phase = s.phase := by unfold State.emit; split <;> simp_all
@[simp] theorem State.emit_result : (s.emit).result = s.result := by unfold State.emit; split <;> simp_all
@[simp] theorem State.emit_respTimeoutMs :
    (s.emit).respTimeoutMs = s.respTimeoutMs := by unfold State.emit; split <;> simp_all
@[simp] theorem State.emit_reqDelayMs : (s.emit).reqDelayMs = s.reqDelayMs := by unfold State.emit; split <;> simp_all
@[simp] theorem State.emit_release : (s.emit).release = s.release := by unfold State.emit; split <;> simp_all
@[simp] theorem State.emit_history :
    (s.emit).history = s.history ++ (s.tx.take 1).map (.wire s.dir) := by unfold State.emit; split <;> simp_all
@[simp] theorem State.emit_inputs : (s.emit).inputs = s.inputs := by unfold State.emit; split <;> simp_all
@[simp] theorem State.emit_source : (s.emit).source = s.source := by unfold State.emit; split <;> simp_all
@[simp] theorem State.emit_rounds : (s.emit).rounds = s.rounds := by unfold State.emit; split <;> simp_all

/-! ## assertReset -/

@[simp] theorem State.assertReset_build : (s.assertReset).build = s.build := rfl
@[simp] theorem State.assertReset_connected : (s.assertReset).connected = false := rfl
@[simp] theorem State.assertReset_pendingId : (s.assertReset).pendingId = 0 := rfl
@[simp] theorem State.assertReset_expectedLen : (s.assertReset).expectedLen = 0 := rfl
@[simp] theorem State.assertReset_matched : (s.assertReset).matched = false := rfl
@[simp] theorem State.assertReset_respBuf : (s.assertReset).respBuf = List.replicate s.build.maxResponseLen 0 := rfl
@[simp] theorem State.assertReset_lastSend : (s.assertReset).lastSend = 0 := rfl
@[simp] theorem State.assertReset_lastSendValid : (s.assertReset).lastSendValid = false := rfl
@[simp] theorem State.assertReset_getT0 : (s.assertReset).getT0 = 0 := rfl
@[simp] theorem State.assertReset_now : (s.assertReset).now = s.now := rfl
@[simp] theorem State.assertReset_dir : (s.assertReset).dir = .toConsole := rfl
@[simp] theorem State.assertReset_ring :
    (s.assertReset).ring = ⟨List.replicate s.build.ringCapacity ⟨0, List.replicate (s.build.maxOobPayload + 1) 0⟩, 0, 0, 0⟩ := rfl
@[simp] theorem State.assertReset_rx : (s.assertReset).rx = [] := rfl
@[simp] theorem State.assertReset_tx : (s.assertReset).tx = [] := rfl
@[simp] theorem State.assertReset_phase : (s.assertReset).phase = .idle := rfl
@[simp] theorem State.assertReset_result : (s.assertReset).result = none := rfl
@[simp] theorem State.assertReset_respTimeoutMs : (s.assertReset).respTimeoutMs = s.build.resetRespTimeoutMs := rfl
@[simp] theorem State.assertReset_reqDelayMs : (s.assertReset).reqDelayMs = s.build.resetReqDelayMs := rfl
@[simp] theorem State.assertReset_release : (s.assertReset).release = s.build.resetRelease := rfl
@[simp] theorem State.assertReset_history :
    (s.assertReset).history = s.history ++ (if s.dir = .toConsole then [] else [.sel .toConsole]) := rfl
@[simp] theorem State.assertReset_inputs : (s.assertReset).inputs = s.inputs := rfl
@[simp] theorem State.assertReset_source : (s.assertReset).source = s.source := rfl
@[simp] theorem State.assertReset_rounds : (s.assertReset).rounds = s.rounds := rfl

/-! ## refill -/

@[simp] theorem State.refill_build : s.refill.build = s.build := by unfold State.refill; split <;> rfl
@[simp] theorem State.refill_connected : s.refill.connected = s.connected := by unfold State.refill; split <;> rfl
@[simp] theorem State.refill_pendingId : s.refill.pendingId = s.pendingId := by unfold State.refill; split <;> rfl
@[simp] theorem State.refill_expectedLen : s.refill.expectedLen = s.expectedLen := by unfold State.refill; split <;> rfl
@[simp] theorem State.refill_matched : s.refill.matched = s.matched := by unfold State.refill; split <;> rfl
@[simp] theorem State.refill_respBuf : s.refill.respBuf = s.respBuf := by unfold State.refill; split <;> rfl
@[simp] theorem State.refill_lastSend : s.refill.lastSend = s.lastSend := by unfold State.refill; split <;> rfl
@[simp] theorem State.refill_lastSendValid : s.refill.lastSendValid = s.lastSendValid := by unfold State.refill; split <;> rfl
@[simp] theorem State.refill_getT0 : s.refill.getT0 = s.getT0 := by unfold State.refill; split <;> rfl
@[simp] theorem State.refill_now : s.refill.now = s.now := by unfold State.refill; split <;> rfl
@[simp] theorem State.refill_dir : s.refill.dir = s.dir := by unfold State.refill; split <;> rfl
@[simp] theorem State.refill_ring : s.refill.ring = s.ring := by unfold State.refill; split <;> rfl
@[simp] theorem State.refill_rx : s.refill.rx = s.rx := by unfold State.refill; split <;> rfl
@[simp] theorem State.refill_tx : s.refill.tx = s.tx := by unfold State.refill; split <;> rfl
@[simp] theorem State.refill_phase : s.refill.phase = s.phase := by unfold State.refill; split <;> rfl
@[simp] theorem State.refill_result : s.refill.result = s.result := by unfold State.refill; split <;> rfl
@[simp] theorem State.refill_respTimeoutMs : s.refill.respTimeoutMs = s.respTimeoutMs := by unfold State.refill; split <;> rfl
@[simp] theorem State.refill_reqDelayMs : s.refill.reqDelayMs = s.reqDelayMs := by unfold State.refill; split <;> rfl
@[simp] theorem State.refill_release : s.refill.release = s.release := by unfold State.refill; split <;> rfl
@[simp] theorem State.refill_history : s.refill.history = s.history := by unfold State.refill; split <;> rfl
@[simp] theorem State.refill_source : s.refill.source = s.source := by unfold State.refill; split <;> rfl

end Sys2Proof.Machine
end

