-- ==== Sys2Proof/Laws/Ops.lean ====
section
/-! SUPPORT. What the shared operations over storage, the ring and the FIFOs can do, said once each. -/

namespace Sys2Proof.Machine

/-! ## MemRead and MemWrite -/

@[simp] theorem memWrite_length (x : List Byte) (i : Nat) (s : List Byte) : (memWrite x i s).length = x.length := by
  simp [memWrite]; omega

theorem memRead_length (x : List Byte) (i n : Nat) (h : i + n ≤ x.length) : (memRead x i n).length = n := by
  simp [memRead]; omega

/-- What was written at the front reads back. -/
theorem memRead_memWrite_zero (x s : List Byte) (h : s.length ≤ x.length) :
    memRead (memWrite x 0 s) 0 s.length = s := by
  simp [memRead, memWrite, List.take_take, Nat.min_eq_left h]

/-- A byte outside the written range reads as before. -/
theorem memWrite_getElem?_outside (x s : List Byte) (i j : Nat) (hi : i ≤ x.length)
    (h : j < i ∨ i + s.length ≤ j) : (memWrite x i s)[j]? = x[j]? := by
  unfold memWrite
  rw [List.getElem?_take]
  split
  · rename_i hj
    rcases h with h | h
    · rw [List.append_assoc, List.getElem?_append_left (by simp; omega), List.getElem?_take_of_lt h]
    · rw [List.getElem?_append_right (by simp; omega), List.getElem?_drop]
      congr 1; simp; omega
  · rename_i hj
    rw [List.getElem?_eq_none (by omega)]

/-- A byte inside the written range reads as written. -/
theorem memWrite_getElem?_inside (x s : List Byte) (i j : Nat) (h : i + s.length ≤ x.length) (hj : j < s.length) :
    (memWrite x i s)[i + j]? = s[j]? := by
  unfold memWrite
  rw [List.getElem?_take, if_pos (by omega), List.append_assoc, List.getElem?_append_right (by simp)]
  rw [List.getElem?_append_left (by simp; omega)]
  congr 1; simp; omega

/-! ## The ring -/

@[simp] theorem Ring.makeRoom_slots (c : Nat) (r : Ring) : (r.makeRoom c).slots = r.slots := by
  unfold Ring.makeRoom; split <;> rfl

@[simp] theorem Ring.makeRoom_wr (c : Nat) (r : Ring) : (r.makeRoom c).wr = r.wr := by
  unfold Ring.makeRoom; split <;> rfl

@[simp] theorem Ring.push_slots (c : Nat) (r : Ring) (f : List Byte) :
    (r.push c f).slots = r.slots.modify r.wr (fun t => t.store f) := by simp [Ring.push, Ring.append]

@[simp] theorem Ring.push_wr (c : Nat) (r : Ring) (f : List Byte) : (r.push c f).wr = (r.wr + 1) % c := by
  simp [Ring.push, Ring.append]

/-- RING_PUSH's RD and COUNT: a full ring drops its oldest frame first (41_ring.md R140). -/
theorem Ring.push_rd_count (c : Nat) (r : Ring) (f : List Byte) :
    (r.count = c ∧ (r.push c f).rd = (r.rd + 1) % c ∧ (r.push c f).count = c - 1 + 1) ∨
    (r.count ≠ c ∧ (r.push c f).rd = r.rd ∧ (r.push c f).count = r.count + 1) := by
  by_cases h : r.count = c
  · exact .inl (by simp [Ring.push, Ring.append, Ring.makeRoom, h])
  · exact .inr (by simp [Ring.push, Ring.append, Ring.makeRoom, h])

@[simp] theorem Ring.dropOldest_slots (c : Nat) (r : Ring) : (r.dropOldest c).slots = r.slots := by
  unfold Ring.dropOldest; split <;> rfl

@[simp] theorem Ring.dropOldest_wr (c : Nat) (r : Ring) : (r.dropOldest c).wr = r.wr := by
  unfold Ring.dropOldest; split <;> rfl

/-- RING_POP's RD and COUNT: an empty ring stays as it is (41_ring.md R141). -/
theorem Ring.dropOldest_rd_count (c : Nat) (r : Ring) :
    (r.count = 0 ∧ r.dropOldest c = r) ∨
    (r.count ≠ 0 ∧ (r.dropOldest c).rd = (r.rd + 1) % c ∧ (r.dropOldest c).count = r.count - 1) := by
  by_cases h : r.count = 0
  · exact .inl ⟨h, by simp [Ring.dropOldest, h]⟩
  · exact .inr ⟨h, by simp [Ring.dropOldest, h]⟩

/-- RING_POP returns NONE exactly when COUNT is 0 (41_ring.md R144). -/
theorem Ring.oldest_cases (r : Ring) :
    (r.count = 0 ∧ r.oldest = none) ∨ (r.count ≠ 0 ∧ r.oldest = some (r.slot r.rd).frame) := by
  by_cases h : r.count = 0
  · exact .inl ⟨h, by simp [Ring.oldest, h]⟩
  · exact .inr ⟨h, by simp [Ring.oldest, h]⟩

/-- A slot whose bytes have room for the frame gives it back. -/
theorem Slot.frame_store (t : Slot) (f : List Byte) (h : f.length ≤ t.fb.length) : (t.store f).frame = f :=
  memRead_memWrite_zero t.fb f h

@[simp] theorem Slot.store_fb_length (t : Slot) (f : List Byte) : (t.store f).fb.length = t.fb.length :=
  memWrite_length t.fb 0 f

@[simp] theorem Slot.store_flen (t : Slot) (f : List Byte) : (t.store f).flen = f.length := rfl

theorem mem_modify_imp {α : Type} (l : List α) (i : Nat) (g : α → α) (x : α) (h : x ∈ l.modify i g) :
    x ∈ l ∨ ∃ y ∈ l, x = g y := by
  induction l generalizing i with
  | nil => simp at h
  | cons a l ih =>
    cases i with
    | zero =>
      rcases List.mem_cons.mp (by simpa using h) with h | h
      · exact .inr ⟨a, by simp, h⟩
      · exact .inl (by simp [h])
    | succ i =>
      rcases List.mem_cons.mp (by simpa using h) with h | h
      · exact .inl (by simp [h])
      · rcases ih i h with h | ⟨y, hy, h⟩
        · exact .inl (by simp [h])
        · exact .inr ⟨y, by simp [hy], h⟩

/-! ## The storage keeps its form -/

theorem Memory.wf_resetOf (b : Build) : Memory.wf (State.resetOf b) := by
  refine ⟨by simp [State.resetOf], by simp [State.resetOf], ?_, by simp [State.resetOf], by simp [State.resetOf]⟩
  intro t ht
  simp only [State.resetOf, List.mem_replicate] at ht
  simp [ht.2, State.resetOf]

theorem Memory.wf_reset : Memory.wf State.reset := Memory.wf_resetOf Config.build

/-- An update that leaves the build, RESP_BUF, the ring and the FIFOs alone keeps the form. -/
theorem Memory.wf_of_eq (s t : State) (hs : Memory.wf s) (hb : t.build = s.build) (hr : t.respBuf = s.respBuf)
    (hg : t.ring = s.ring) (hx : t.rx = s.rx) (ht : t.tx = s.tx) : Memory.wf t := by
  simpa [Memory.wf, hb, hr, hg, hx, ht] using hs

theorem Memory.wf_respBuf (s : State) (x : List Byte) (hs : Memory.wf s) (h : x.length = s.respBuf.length) :
    Memory.wf { s with respBuf := x } := ⟨by simpa [h] using hs.1, hs.2⟩

theorem Memory.wf_rx (s : State) (x : List Byte) (hs : Memory.wf s) (h : x.length ≤ s.rx.length) :
    Memory.wf { s with rx := x } := ⟨hs.1, hs.2.1, hs.2.2.1, Nat.le_trans h hs.2.2.2.1, hs.2.2.2.2⟩

theorem Memory.wf_rxDiscard (s : State) (hs : Memory.wf s) : Memory.wf s.rxDiscard :=
  Memory.wf_rx s [] hs (by simp)

theorem Memory.wf_ringPush (s : State) (c : Nat) (f : List Byte) (hs : Memory.wf s) :
    Memory.wf { s with ring := s.ring.push c f } := by
  refine ⟨hs.1, by simpa using hs.2.1, ?_, hs.2.2.2⟩
  intro t ht
  rcases mem_modify_imp _ _ _ _ (by simpa using ht) with h | ⟨y, hy, h⟩
  · exact hs.2.2.1 t h
  · simpa [h] using hs.2.2.1 y hy

theorem Memory.wf_ringPop (s : State) (c : Nat) (hs : Memory.wf s) :
    Memory.wf { s with ring := s.ring.dropOldest c } :=
  ⟨hs.1, by simpa using hs.2.1, by simpa using hs.2.2.1, hs.2.2.2⟩

theorem Memory.wf_txAppend (s : State) (b : Byte) (hs : Memory.wf s) (h : s.txFull = false) :
    Memory.wf (s.txAppend b) := by
  refine ⟨hs.1, hs.2.1, hs.2.2.1, hs.2.2.2.1, ?_⟩
  simp [State.txFull] at h
  simp; omega

theorem Memory.wf_arrive (s : State) (side : Direction) (b : Byte) (hs : Memory.wf s) :
    Memory.wf (s.arrive side b) := by
  refine ⟨by simpa using hs.1, by simpa using hs.2.1, by simpa using hs.2.2.1, ?_, by simpa using hs.2.2.2.2⟩
  have := hs.2.2.2.1
  simp only [State.arrive_rx, State.arrive_build]
  split
  · simp; omega
  · exact this

theorem Memory.wf_emit (s : State) (hs : Memory.wf s) : Memory.wf s.emit := by
  refine ⟨by simpa using hs.1, by simpa using hs.2.1, by simpa using hs.2.2.1, by simpa using hs.2.2.2.1, ?_⟩
  have := hs.2.2.2.2
  simp; omega

theorem Memory.wf_assertReset (s : State) : Memory.wf s.assertReset := by
  refine Memory.wf_of_eq _ _ (Memory.wf_resetOf s.build) rfl rfl rfl rfl rfl

/-! ## Hex -/

@[simp] theorem decodePairs_length_two_mul (n : Nat) (x : List Byte) (h : x.length = 2 * n) :
    (decodePairs x).length = n := by
  induction n generalizing x with
  | zero => simp_all [decodePairs]
  | succ n ih =>
    match x, h with
    | a :: b :: rest, h => simp [decodePairs, ih rest (by simp at h; omega)]

end Sys2Proof.Machine
end

