-- ==== Sys2Proof/Laws/Routines.lean ====
section
/-! SUPPORT. Everything each shared micro-step can do, said once, so that no proof has to unfold it. -/

namespace Sys2Proof.Machine

/-- TxFlush (20_memory.md R70). -/
theorem flushStep_cases (d : Direction) (next : Micro) (s : State) :
    (s.tx = [] ∧ flushStep d next s = s.goto (.steer d next)) ∨
    (s.tx ≠ [] ∧ flushStep d next s = s.goto (.wait (.flush d next))) := by
  unfold flushStep
  by_cases h : s.tx = []
  · exact .inl ⟨h, if_pos h⟩
  · exact .inr ⟨h, if_neg h⟩

/-- TxPush (20_memory.md R70). -/
theorem pushStep_cases (bytes : List Byte) (next : Micro) (s : State) :
    (bytes = [] ∧ pushStep bytes next s = s.goto next) ∨
    (∃ b rest, bytes = b :: rest ∧ s.build.txFifoDepth ≤ s.tx.length ∧
      pushStep bytes next s = s.goto (.wait (.push bytes next))) ∨
    (∃ b rest, bytes = b :: rest ∧ s.tx.length < s.build.txFifoDepth ∧
      pushStep bytes next s = (s.txAppend b).goto (.push rest next)) := by
  cases bytes with
  | nil => exact .inl ⟨rfl, rfl⟩
  | cons b rest =>
    by_cases h : s.build.txFifoDepth ≤ s.tx.length
    · exact .inr (.inl ⟨b, rest, rfl, h, by simp [pushStep, State.txFull, h]⟩)
    · exact .inr (.inr ⟨b, rest, rfl, by omega, by simp [pushStep, State.txFull, h]⟩)

/-- One pass of RX_READ (43_transport.md R180). -/
theorem readStep_cases (n : Nat) (t : Time) (got : List Byte) (k : Reader) (s : State) :
    (n ≤ got.length ∧ readStep n t got k s = s.goto (.readDone got k)) ∨
    (∃ b rest, got.length < n ∧ s.rx = b :: rest ∧
      readStep n t got k s = State.goto { s with rx := rest } (.reading n t (got ++ [b]) k)) ∨
    (got.length < n ∧ s.rx = [] ∧ s.build.channelReadTimeoutMs ≤ s.now - t ∧
      readStep n t got k s = s.goto (.readDone got k)) ∨
    (got.length < n ∧ s.rx = [] ∧ s.now - t < s.build.channelReadTimeoutMs ∧
      readStep n t got k s = s.goto (.wait (.reading n t got k))) := by
  unfold readStep
  by_cases hn : got.length < n
  · rw [if_pos hn]
    refine .inr ?_
    cases hx : s.rx with
    | cons b rest => exact .inl ⟨b, rest, hn, rfl, rfl⟩
    | nil =>
      by_cases ht : s.build.channelReadTimeoutMs ≤ s.now - t
      · exact .inr (.inl ⟨hn, rfl, ht, if_pos ht⟩)
      · exact .inr (.inr ⟨hn, rfl, BitVec.not_le.mp ht, if_neg ht⟩)
  · exact .inl ⟨by omega, if_neg hn⟩

/-- What a finished read is made of (43_transport.md R183, R184). -/
theorem readDoneStep_cases (got : List Byte) (k : Reader) (s : State) :
    (∃ n, k = .payload n ∧ got.length = 2 * n ∧ readDoneStep got k s = s.goto (.payloadStore (decodePairs got))) ∨
    (∃ n, k = .payload n ∧ got.length ≠ 2 * n ∧ readDoneStep got k s = s.goto .payloadDiscard) ∨
    (∃ c e, k = .oob c e ∧ got.length < 2 * e ∧ readDoneStep got k s = s.goto (.oobDiscard .shortOob c)) ∨
    (∃ c e, k = .oob c e ∧ 2 * e ≤ got.length ∧ readDoneStep got k s = s.goto (.oobPush (c :: decodePairs got))) := by
  cases k with
  | payload n =>
    by_cases h : got.length = 2 * n
    · exact .inl ⟨n, rfl, h, if_pos h⟩
    · exact .inr (.inl ⟨n, rfl, h, if_neg h⟩)
  | oob c e =>
    by_cases h : got.length < 2 * e
    · exact .inr (.inr (.inl ⟨c, e, rfl, h, if_pos h⟩))
    · exact .inr (.inr (.inr ⟨c, e, rfl, by omega, if_neg h⟩))

/-- What OOB_DECODE does with the table's answer (43_transport.md R183). -/
theorem oobKnownStep_cases (c : Byte) (e : Option Nat) (s : State) :
    (e = none ∧ oobKnownStep c e s = s.goto (.oobDiscard .unknownOob c)) ∨
    (∃ n, e = some n ∧ oobKnownStep c e s = s.goto (.readStart (2 * n) (.oob c n))) := by
  cases e with
  | none => exact .inl ⟨rfl, rfl⟩
  | some n => exact .inr ⟨n, rfl, rfl⟩

/-- The pops of SCAN_STEP (43_transport.md R182). -/
theorem scanPopStep_cases (s : State) :
    (∃ h l rest, s.rx = h :: l :: rest ∧ scanPopStep s = State.goto { s with rx := rest } (.scanDecode ⟨h, l⟩)) ∨
    (s.rx.length < 2 ∧ scanPopStep s = s.stuck .scanPop) := by
  unfold scanPopStep
  split
  · rename_i h l rest hx
    exact .inl ⟨h, l, rest, hx, rfl⟩
  · rename_i hx
    refine .inr ⟨?_, rfl⟩
    match hs : s.rx with
    | [] => simp
    | [_] => simp
    | h :: l :: rest => exact absurd hs (hx h l rest)

/-- POP_NOTIF's RING_POP (43_transport.md R188). -/
theorem popRingStep_cases (s : State) :
    (s.ring.count = 0 ∧ popRingStep s = s.goto (.popped none)) ∨
    (s.ring.count ≠ 0 ∧ popRingStep s =
      State.goto { s with ring := s.ring.dropOldest s.build.ringCapacity }
        (.popped (some (s.ring.slot s.ring.rd).frame))) := by
  rcases s.ring.oldest_cases with ⟨h, ho⟩ | ⟨h, ho⟩
  · exact .inl ⟨h, by simp [popRingStep, ho, Ring.dropOldest, h]⟩
  · exact .inr ⟨h, by simp [popRingStep, ho]⟩

/-- What POP_NOTIF makes of the popped frame (43_transport.md R188). -/
theorem poppedStep_cases (f : Option (List Byte)) (s : State) :
    (f = none ∧ poppedStep f s = s.goto (.release .empty [])) ∨
    (∃ b, f = some b ∧ poppedStep f s = s.goto (.release .ok (countByte b.length :: b))) := by
  cases f with
  | none => exact .inl ⟨rfl, rfl⟩
  | some b => exact .inr ⟨b, rfl, rfl⟩

/-- CFG_READ's test of the index (44_control.md R247). -/
theorem cfgReadStep_cases (idx : CfgIndex) (s : State) :
    (cfgReg idx = none ∧ cfgReadStep idx s = s.raise .param) ∨
    (∃ r, cfgReg idx = some r ∧ cfgReadStep idx s = s.goto .cfgLoad) := by
  unfold cfgReadStep
  cases h : cfgReg idx with
  | none => exact .inl ⟨rfl, rfl⟩
  | some r => exact .inr ⟨r, rfl, rfl⟩

/-- CFG_READ's reading of the register (44_control.md R247). -/
theorem cfgLoadStep_cases (idx : CfgIndex) (s : State) :
    (cfgReg idx = none ∧ cfgLoadStep idx s = s.stuck .cfgLoad) ∨
    (∃ r, cfgReg idx = some r ∧ cfgLoadStep idx s = s.goto (.finish .ok (be32Bytes (s.cfgValue r)))) := by
  unfold cfgLoadStep
  cases h : cfgReg idx with
  | none => exact .inl ⟨rfl, rfl⟩
  | some r => exact .inr ⟨r, rfl, rfl⟩

/-- CFG_WRITE's write (44_control.md R248). -/
theorem State.cfgStore_cases (s : State) (r : CfgReg) (v : CfgWord) :
    (r = .respTimeoutMs ∧ s.cfgStore r v = some { s with respTimeoutMs := v }) ∨
    (r = .reqDelayMs ∧ s.cfgStore r v = some { s with reqDelayMs := v }) ∨
    (r = .ctrl ∧ s.cfgStore r v = some { s with release := v.getLsbD 0 }) ∨
    (r ≠ .respTimeoutMs ∧ r ≠ .reqDelayMs ∧ r ≠ .ctrl ∧ s.cfgStore r v = none) := by
  cases r <;> simp [State.cfgStore]

/-- CFG_WRITE's first statement (44_control.md R248): Param, or the write of one of the three registers. -/
theorem cfgWriteStep_cases (idx : CfgIndex) (v : CfgWord) (s : State) :
    (cfgWriteStep idx v s = s.raise .param) ∨
    (cfgReg idx = some .respTimeoutMs ∧
      cfgWriteStep idx v s = State.goto { s with respTimeoutMs := v } (.finish .ok [])) ∨
    (cfgReg idx = some .reqDelayMs ∧ cfgWriteStep idx v s = State.goto { s with reqDelayMs := v } (.finish .ok [])) ∨
    (cfgReg idx = some .ctrl ∧
      cfgWriteStep idx v s = State.goto { s with release := v.getLsbD 0 } (.finish .ok [])) := by
  unfold cfgWriteStep
  cases h : cfgReg idx with
  | none => exact .inl rfl
  | some r => cases r <;> simp [State.cfgStore]

end Sys2Proof.Machine
end

