-- ==== Sys2Proof/Laws/Run.lean ====
section
/-! SUPPORT. How runs are reasoned about: what a micro-step does to PHASE, what a quiet run and a run over `inputs` keep,
and what `exec`, `fetch` and `step` can answer. -/

namespace Sys2Proof.Machine

/-! ## A micro-step and PHASE -/

/-- A micro-step ends the command or moves it to a position: it never changes which command is in progress. -/
def keepsCommand (micro : Micro → State → State) : Prop :=
  ∀ μ s, (micro μ s).phase = .idle ∨ ∃ ν, (micro μ s).phase = s.phase.moveTo ν

theorem baseStep_keepsCommand : keepsCommand baseStep := by
  intro μ s
  unfold baseStep flushStep pushStep
  repeat' split
  all_goals first
    | exact .inl rfl
    | exact .inr ⟨_, rfl⟩
    | exact .inr ⟨_, by simp; rfl⟩

theorem payloadStep_keepsCommand : keepsCommand payloadStep := by
  intro μ s
  unfold payloadStep readStep readDoneStep
  repeat' split
  all_goals first
    | exact baseStep_keepsCommand _ s
    | exact .inr ⟨_, rfl⟩

theorem receiveStep_keepsCommand : keepsCommand receiveStep := by
  intro μ s
  unfold receiveStep scanPopStep oobKnownStep
  repeat' split
  all_goals first
    | exact payloadStep_keepsCommand _ s
    | exact .inr ⟨_, rfl⟩

theorem microOf_keepsCommand (i : Instr) : keepsCommand (microOf i) := by
  intro μ s
  cases i <;> dsimp only [microOf]
  case popNotif =>
    unfold microPopNotif popRingStep poppedStep
    repeat' split
    all_goals first
      | exact receiveStep_keepsCommand _ s
      | exact .inr ⟨_, rfl⟩
  case getResp cap =>
    unfold microGetResp
    repeat' split
    all_goals first
      | exact receiveStep_keepsCommand _ s
      | exact .inr ⟨_, rfl⟩
  case sendReq flags bytes =>
    unfold microSendReq
    repeat' split
    all_goals first
      | exact .inl rfl
      | exact baseStep_keepsCommand _ s
      | exact .inr ⟨_, rfl⟩
  case cfgRead idx =>
    unfold microCfgRead cfgReadStep cfgLoadStep
    repeat' split
    all_goals first
      | exact .inl rfl
      | exact baseStep_keepsCommand _ s
      | exact .inr ⟨_, rfl⟩
  case cfgWrite idx v =>
    unfold microCfgWrite
    split
    · rcases cfgWriteStep_cases idx v s with h | ⟨_, h⟩ | ⟨_, h⟩ | ⟨_, h⟩ <;> rw [h]
      · exact .inl rfl
      all_goals exact .inr ⟨_, rfl⟩
    · exact baseStep_keepsCommand _ s
  all_goals
    first
      | unfold microDecNibble
      | unfold microDecByte
      | unfold microEncByte
      | unfold microBusDev
      | unfold microBusCon
      | unfold microBusDir
      | unfold microConWrite
      | unfold microSessionInit
      | unfold microRingAvail
    repeat' split
    all_goals first
      | exact .inl rfl
      | exact baseStep_keepsCommand _ s
      | exact .inr ⟨_, rfl⟩

@[simp] theorem seqStep_idle (s : State) (h : s.phase = .idle) : seqStep s = s := by simp [seqStep, h]

theorem seqStep_busy (s : State) (i : Instr) (μ : Micro) (h : s.phase = .busy i μ) :
    seqStep s = microOf i μ s := by simp [seqStep, h]

/-- The command `i` is in progress, or nothing is. -/
def State.running (s : State) (i : Instr) : Prop := s.phase = .idle ∨ ∃ μ, s.phase = .busy i μ

theorem seqStepWith_eq (i : Instr) (s : State) (h : s.running i) : seqStepWith (microOf i) s = seqStep s := by
  rcases h with h | ⟨μ, h⟩ <;> simp [seqStepWith, seqStep, h]

theorem seqStep_running (i : Instr) (s : State) (h : s.running i) : (seqStep s).running i := by
  rcases h with h | ⟨μ, h⟩
  · exact .inl (by simp [h])
  · rw [seqStep_busy s i μ h]
    rcases microOf_keepsCommand i μ s with hk | ⟨ν, hk⟩
    · exact .inl hk
    · exact .inr ⟨ν, by simpa [h] using hk⟩

/-! ## A quiet run -/

/-- A quiet run keeps what every micro-step keeps. -/
theorem runQuiet_keeps (i : Instr) (P : State → Prop) (hstep : ∀ s, P s → P (seqStep s)) (k : Nat) (s : State)
    (hr : s.running i) (h : P s) : P (runQuiet (microOf i) k s) ∧ (runQuiet (microOf i) k s).running i := by
  induction k generalizing s with
  | zero => exact ⟨h, hr⟩
  | succ k ih =>
    unfold runQuiet
    rw [seqStepWith_eq i s hr]
    split
    · exact ⟨hstep s h, seqStep_running i s hr⟩
    · exact ih _ (seqStep_running i s hr) (hstep s h)

theorem runQuiet_rest (i : Instr) (k : Nat) (s : State) (hr : s.running i) (h : (seqStep s).resting = true) :
    runQuiet (microOf i) (k + 1) s = seqStep s := by
  unfold runQuiet; rw [seqStepWith_eq i s hr, if_pos h]

theorem runQuiet_go (i : Instr) (k : Nat) (s : State) (hr : s.running i) (h : (seqStep s).resting = false) :
    runQuiet (microOf i) (k + 1) s = runQuiet (microOf i) k (seqStep s) := by
  rw [runQuiet, seqStepWith_eq i s hr, if_neg (by simp [h])]

/-- The sequencer, alone, comes from `s` to its first rest `t`. -/
inductive QuietTo : State → State → Prop where
  | rest (s : State) (h : (seqStep s).resting = true) : QuietTo s (seqStep s)
  | go (s t : State) (h : (seqStep s).resting = false) (ht : QuietTo (seqStep s) t) : QuietTo s t

/-! ## A run over `inputs` -/

/-- Entering the environment's next round changes only the model's own fields. -/
theorem State.refill_keeps (P : State → Prop) (hinputs : ∀ s l n, P s → P { s with inputs := l, rounds := n })
    (s : State) (h : P s) : P s.refill := by
  unfold State.refill
  split
  · exact h
  · exact hinputs s _ s.rounds h
  · exact hinputs s _ _ h

/-- A run keeps what every move of every agent keeps, and what does not depend on the moves still to come. -/
theorem runInputs_keeps (i : Instr) (P : State → Prop) (hmove : ∀ s e, P s → P (s.move e))
    (hinputs : ∀ s l n, P s → P { s with inputs := l, rounds := n }) (l : List Input) (s : State)
    (hr : s.running i) (h : P s) : P (runInputs (microOf i) l s) := by
  have hseq : ∀ s, P s → P (seqStep s) := fun s h => hmove s .seq h
  have quiet : ∀ l s, s.running i → P s → P (runQuiet (microOf i) s.fuel { s with inputs := l }) :=
    fun l s hr h => (runQuiet_keeps i P hseq s.fuel { s with inputs := l } hr (hinputs s l s.rounds h)).1
  induction l generalizing s with
  | nil =>
    unfold runInputs
    split
    · exact quiet [] s hr h
    all_goals exact State.refill_keeps P hinputs s h
  | cons e es ih =>
    unfold runInputs
    split
    · exact hinputs s _ s.rounds h
    · cases e with
      | command bytes => exact quiet _ s hr h
      | seq =>
        dsimp only
        rw [seqStepWith_eq i s hr]
        exact ih _ (seqStep_running i s hr) (hseq s h)
      | arrive side b => exact ih _ (by simpa [State.running] using hr) (hmove s (.arrive side b) h)
      | emit => exact ih _ (by simpa [State.running] using hr) (hmove s .emit h)
      | tick ms => exact ih _ (by simpa [State.running] using hr) (hmove s (.tick ms) h)
      | reset => exact ih _ (.inl (by simp)) (hmove s .reset h)

theorem runInputs_quiet (i : Instr) (s : State) (l : List Input)
    (hl : (l = [] ∧ s.source = .ends) ∨ ∃ b r, l = .command b :: r) (hb : s.phase ≠ .idle) :
    runInputs (microOf i) l s = runQuiet (microOf i) s.fuel { s with inputs := l } := by
  rcases hl with ⟨rfl, hs⟩ | ⟨b, r, rfl⟩
  · simp [runInputs, hs]
  · simp [runInputs, hb]

/-! ## exec, fetch and step -/

/-- Every meaning is its command's micro-steps, run. -/
theorem exec_eq (i : Instr) (s : State) : exec i s = runCommand i (microOf i) s := by
  cases i <;> rfl

/-- What exec can answer: a run from IDLE, a run from where the command stands, or a refusal. -/
theorem exec_cases (i : Instr) (s : State) :
    (s.phase = .idle ∧ exec i s = .next (runInputs (microOf i) s.inputs { s with phase := .busy i .start })) ∨
    ((∃ μ, s.phase = .busy i μ) ∧ exec i s = .next (runInputs (microOf i) s.inputs s)) ∨
    ((∃ j μ, s.phase = .busy j μ ∧ j ≠ i) ∧ exec i s = .refused .commandWhileBusy) := by
  rw [exec_eq]
  unfold runCommand
  cases h : s.phase with
  | idle => exact .inl ⟨rfl, rfl⟩
  | busy j μ =>
    by_cases hj : j = i
    · exact .inr (.inl ⟨⟨μ, by rw [hj]⟩, by simp [hj]⟩)
    · exact .inr (.inr ⟨⟨j, μ, rfl, hj⟩, by simp [hj]⟩)

/-- exec keeps what every move keeps, what does not depend on the moves still to come, and what issuing a command
keeps. -/
theorem exec_keeps (P : State → Prop) (hmove : ∀ s e, P s → P (s.move e))
    (hinputs : ∀ s l n, P s → P { s with inputs := l, rounds := n })
    (hissue : ∀ s i, s.phase = .idle → P s → P { s with phase := .busy i .start })
    (i : Instr) (s t : State) (h : exec i s = .next t) (hs : P s) : P t := by
  rcases exec_cases i s with ⟨hp, he⟩ | ⟨⟨μ, hp⟩, he⟩ | ⟨_, he⟩
  · rw [he] at h
    cases h
    exact runInputs_keeps i P hmove hinputs _ _ (.inr ⟨_, rfl⟩) (hissue s i hp hs)
  · rw [he] at h
    cases h
    exact runInputs_keeps i P hmove hinputs _ _ (.inr ⟨μ, hp⟩) hs
  · rw [he] at h; cases h

/-- What step can do. -/
theorem step_cases (s : State) :
    (∃ i μ, s.phase = .busy i μ ∧ step s = exec i s) ∨
    (s.phase = .idle ∧ s.inputs = [] ∧ step s = .next s.refill) ∨
    (∃ bytes rest i, s.phase = .idle ∧ s.inputs = .command bytes :: rest ∧ decode bytes = .ok i ∧
      step s = exec i { s with inputs := rest }) ∨
    (∃ bytes rest op, s.phase = .idle ∧ s.inputs = .command bytes :: rest ∧
      decode bytes = .error (.illegalOpcode op) ∧ step s = .next ({ s with inputs := rest }.raise .illegalOp)) ∨
    (∃ bytes rest, s.phase = .idle ∧ s.inputs = .command bytes :: rest ∧ step s = .fault .partialRecord) ∨
    (∃ e rest, s.phase = .idle ∧ s.inputs = e :: rest ∧ step s = .next ({ s with inputs := rest }.envMove e)) := by
  unfold step fetch
  cases hp : s.phase with
  | busy i μ => exact .inl ⟨i, μ, rfl, rfl⟩
  | idle =>
    refine .inr ?_
    cases hi : s.inputs with
    | nil => exact .inl ⟨rfl, rfl, rfl⟩
    | cons e rest =>
      refine .inr ?_
      cases e with
      | command bytes =>
        dsimp only [fetchRecord]
        cases hd : decode bytes with
        | ok i => exact .inl ⟨bytes, rest, i, rfl, rfl, hd, rfl⟩
        | error d =>
          cases d with
          | illegalOpcode op => exact .inr (.inl ⟨bytes, rest, op, rfl, rfl, hd, rfl⟩)
          | truncated => exact .inr (.inr (.inl ⟨bytes, rest, rfl, rfl, rfl⟩))
          | trailing => exact .inr (.inr (.inl ⟨bytes, rest, rfl, rfl, rfl⟩))
      | seq => exact .inr (.inr (.inr ⟨_, rest, rfl, rfl, rfl⟩))
      | arrive side b => exact .inr (.inr (.inr ⟨_, rest, rfl, rfl, rfl⟩))
      | emit => exact .inr (.inr (.inr ⟨_, rest, rfl, rfl, rfl⟩))
      | tick ms => exact .inr (.inr (.inr ⟨_, rest, rfl, rfl, rfl⟩))
      | reset => exact .inr (.inr (.inr ⟨_, rest, rfl, rfl, rfl⟩))

/-- A move of the environment, with the sequencer idle, is a move. -/
theorem envMove_eq_move (s : State) (e : Input) (h : s.phase = .idle) : s.envMove e = s.move e := by
  cases e <;> simp [State.envMove, State.move, h]

end Sys2Proof.Machine
end

