-- ==== Sys2Proof/Laws/Fuel.lean ====
section
/-! SUPPORT. Why a quiet run's fuel is enough: a micro-step that does not come to rest uses some of it. -/

namespace Sys2Proof.Machine

/-- The micro-step ends the command, comes to a Wait, or moves on to a position that is nearer to a rest. -/
def descends (n : Nat) (micro : Micro → State → State) : Prop :=
  ∀ μ s, (micro μ s).phase = .idle ∨ (∃ back, (micro μ s).phase = s.phase.moveTo (.wait back)) ∨
    ∃ ν, (micro μ s).phase = s.phase.moveTo ν ∧
      ν.rank n + 16 * (micro μ s).rx.length < μ.rank n + 16 * s.rx.length

theorem baseStep_descends (n : Nat) : descends n baseStep := by
  intro μ s
  unfold baseStep flushStep pushStep
  repeat' split
  all_goals first
    | exact .inl rfl
    | exact .inr (.inl ⟨_, rfl⟩)
    | exact .inr (.inr ⟨_, rfl, by simp [Micro.rank]⟩)
    | exact .inr (.inr ⟨_, by simp; rfl, by simp [Micro.rank]⟩)

theorem payloadStep_descends (n : Nat) : descends n payloadStep := by
  intro μ s
  unfold payloadStep readStep readDoneStep
  repeat' split
  all_goals first
    | exact .inr (.inl ⟨_, rfl⟩)
    | exact .inr (.inr ⟨_, rfl, by simp [Micro.rank, Reader.rank, switchTo, *] <;> omega⟩)
    | exact baseStep_descends n _ s

theorem receiveStep_descends (n : Nat) : descends n receiveStep := by
  intro μ s
  unfold receiveStep scanPopStep oobKnownStep
  repeat' split
  all_goals first
    | exact .inr (.inl ⟨_, rfl⟩)
    | exact .inr (.inr ⟨_, rfl, by simp [Micro.rank, Reader.rank, *] <;> omega⟩)
    | exact payloadStep_descends n _ s

theorem Micro.rank_scanned (n : Nat) (r : ScanResult) : 7 < Micro.rank n (.scanned r) := by
  cases r <;> simp [Micro.rank]

/-- The tests GET_RESP makes of a pass's answer come nearer to a rest, one after the other. -/
theorem Micro.rank_respTests (n : Nat) (r : ScanResult) :
    (r ≠ .correlated → Micro.rank n (.respShort r) < Micro.rank n (.scanned r)) ∧
    5 < Micro.rank n (.respShort r) ∧
    (r ≠ .tooShort → Micro.rank n (.respDeadline r) < Micro.rank n (.respShort r)) ∧
    5 < Micro.rank n (.respDeadline r) ∧
    Micro.rank n (.respYield r) < Micro.rank n (.respDeadline r) ∧
    (r ≠ .none → 16 < Micro.rank n (.respYield r)) := by
  cases r <;> simp [Micro.rank]

/-- Every micro-step of a command uses fuel, unless the sequencer comes to rest. -/
theorem microOf_descends (i : Instr) : descends i.listOperand.length (microOf i) := by
  intro μ s
  cases i <;> dsimp only [microOf, Instr.listOperand]
  case popNotif =>
    unfold microPopNotif popRingStep poppedStep
    repeat' split
    all_goals first
      | exact .inr (.inl ⟨_, rfl⟩)
      | exact .inr (.inr ⟨_, rfl, Nat.add_lt_add_right (Micro.rank_scanned _ _) _⟩)
      | exact .inr (.inr ⟨_, rfl, Nat.add_lt_add_right (Nat.lt_of_succ_lt (Micro.rank_scanned _ _)) _⟩)
      | exact receiveStep_descends _ _ s
      | exact .inr (.inr ⟨_, rfl, by simp [Micro.rank, switchTo]⟩)
  case getResp cap =>
    unfold microGetResp
    repeat' split
    all_goals first
      | exact .inr (.inl ⟨_, rfl⟩)
      | exact .inr (.inr ⟨_, rfl, Nat.add_lt_add_right (Nat.lt_trans (by decide) (Micro.rank_scanned _ _)) _⟩)
      | exact .inr (.inr ⟨_, rfl, Nat.add_lt_add_right ((Micro.rank_respTests _ _).1 (by assumption)) _⟩)
      | exact .inr (.inr ⟨_, rfl, Nat.add_lt_add_right (Micro.rank_respTests _ _).2.1 _⟩)
      | exact .inr (.inr ⟨_, rfl, Nat.add_lt_add_right ((Micro.rank_respTests _ _).2.2.1 (by assumption)) _⟩)
      | exact .inr (.inr ⟨_, rfl, Nat.add_lt_add_right (Micro.rank_respTests _ _).2.2.2.1 _⟩)
      | exact .inr (.inr ⟨_, rfl, Nat.add_lt_add_right (Micro.rank_respTests _ _).2.2.2.2.1 _⟩)
      | exact .inr (.inr ⟨_, rfl, Nat.add_lt_add_right ((Micro.rank_respTests _ _).2.2.2.2.2 (by assumption)) _⟩)
      | exact receiveStep_descends _ _ s
      | exact .inr (.inr ⟨_, rfl, by simp [Micro.rank, switchTo]⟩)
  case sendReq flags bytes =>
    unfold microSendReq
    repeat' split
    all_goals first
      | exact .inl rfl
      | exact .inr (.inl ⟨_, rfl⟩)
      | exact .inr (.inr ⟨_, rfl, by simp [Micro.rank, switchTo] <;> omega⟩)
      | exact baseStep_descends _ _ s
  case cfgRead idx =>
    unfold microCfgRead cfgReadStep cfgLoadStep
    repeat' split
    all_goals first
      | exact .inl rfl
      | exact .inr (.inl ⟨_, rfl⟩)
      | exact .inr (.inr ⟨_, rfl, by simp [Micro.rank]⟩)
      | exact baseStep_descends _ _ s
  case cfgWrite idx v =>
    unfold microCfgWrite
    split
    · rcases cfgWriteStep_cases idx v s with h | ⟨_, h⟩ | ⟨_, h⟩ | ⟨_, h⟩ <;> rw [h]
      · exact .inl rfl
      all_goals exact .inr (.inr ⟨_, rfl, by simp [Micro.rank]⟩)
    · exact baseStep_descends _ _ s
  all_goals
    first
      | unfold microDecNibble
      | unfold microDecByte
      | unfold microEncByte
      | unfold microBusDev
      | unfold microBusCon
      | unfold microBusDir
      | unfold microConWrite
      | unfold microSessionInit
      | unfold microRingAvail
    repeat' split
    all_goals first
      | exact .inl rfl
      | exact .inr (.inr ⟨_, rfl, by simp [Micro.rank, switchTo] <;> omega⟩)
      | exact baseStep_descends _ _ s

theorem State.resting_cases (s : State) :
    (s.resting = true ∧ (s.phase = .idle ∨ ∃ i back, s.phase = .busy i (.wait back))) ∨
    (s.resting = false ∧ ∃ i μ, s.phase = .busy i μ ∧ ∀ back, μ ≠ .wait back) := by
  unfold State.resting
  split
  · exact .inl ⟨rfl, .inl ‹_›⟩
  · exact .inl ⟨rfl, .inr ⟨_, _, ‹_›⟩⟩
  · rename_i i μ h hp
    refine .inr ⟨rfl, i, μ, hp, ?_⟩
    rintro back rfl
    exact h _ rfl

/-- A micro-step that leaves the sequencer running uses fuel. -/
theorem seqStep_fuel (s : State) (h : (seqStep s).resting = false) : (seqStep s).fuel < s.fuel := by
  rcases State.resting_cases (seqStep s) with ⟨hr, _⟩ | ⟨_, i, μ, hp, hw⟩
  · simp [hr] at h
  · cases hs : s.phase with
    | idle => simp [hs] at hp
    | busy j ν =>
      rw [seqStep_busy s j ν hs] at hp ⊢
      rcases microOf_descends j ν s with hd | ⟨back, hd⟩ | ⟨κ, hd, hlt⟩
      · simp [hd] at hp
      · simp only [hs, Phase.moveTo_busy] at hd
        exact absurd (by rw [hd] at hp; cases hp; rfl) (hw back)
      · simp only [hs, Phase.moveTo_busy] at hd
        simp only [State.fuel, hd, hs]
        omega

theorem State.fuel_inputs (s : State) (l : List Input) : State.fuel { s with inputs := l } = s.fuel := rfl

/-- With its fuel, a quiet run comes to the sequencer's first rest. -/
theorem runQuiet_of_quietTo (i : Instr) (s t : State) (h : QuietTo s t) :
    s.running i → ∀ k, s.fuel ≤ k → runQuiet (microOf i) k s = t := by
  induction h with
  | rest s h =>
    intro hr k hk
    obtain ⟨k, rfl⟩ : ∃ m, k = m + 1 := ⟨k - 1, by unfold State.fuel at hk; split at hk <;> omega⟩
    exact runQuiet_rest i k s hr h
  | go s t h _ ih =>
    intro hr k hk
    have hf := seqStep_fuel s h
    obtain ⟨k, rfl⟩ : ∃ m, k = m + 1 := ⟨k - 1, by omega⟩
    rw [runQuiet_go i k s hr h]
    exact ih (seqStep_running i s hr) k (by omega)

/-- A command issued in IDLE with a quiet environment ends where its quiet run first rests. -/
theorem exec_of_quietTo (i : Instr) (s t : State) (hp : s.phase = .idle)
    (hq : (s.inputs = [] ∧ s.source = .ends) ∨ ∃ b r, s.inputs = .command b :: r)
    (h : QuietTo { s with phase := .busy i .start } t) : exec i s = .next t := by
  rcases exec_cases i s with ⟨_, he⟩ | ⟨⟨μ, hb⟩, _⟩ | ⟨⟨j, μ, hb, _⟩, _⟩
  · rw [he, runInputs_quiet i { s with phase := .busy i .start } _ hq (by simp)]
    exact congrArg _ (runQuiet_of_quietTo i _ t h (.inr ⟨_, rfl⟩) _ (Nat.le_refl _))
  · simp [hp] at hb
  · simp [hp] at hb

/-- The command in progress goes on, with a quiet environment, to the sequencer's next rest. -/
theorem exec_busy_of_quietTo (i : Instr) (μ : Micro) (s t : State) (hp : s.phase = .busy i μ)
    (hq : (s.inputs = [] ∧ s.source = .ends) ∨ ∃ b r, s.inputs = .command b :: r) (h : QuietTo s t) : exec i s = .next t := by
  rcases exec_cases i s with ⟨hb, _⟩ | ⟨_, he⟩ | ⟨⟨j, ν, hb, hj⟩, _⟩
  · simp [hp] at hb
  · rw [he, runInputs_quiet i _ _ hq (by simp [hp])]
    exact congrArg _ (runQuiet_of_quietTo i _ t h (.inr ⟨μ, hp⟩) _ (Nat.le_refl _))
  · exact absurd (by rw [hp] at hb; cases hb; rfl) hj

end Sys2Proof.Machine
end

