-- ==== Sys2Proof/Laws/PerInstr.lean ====
section
/-! SUPPORT. What is said of each command on its own. `AssignedOpcode`: whatever follows the command's opcode, the
decoder does not call the record illegal (30_encoding.md R101, R102). -/

namespace Sys2Proof.Laws

/-- No record that begins with the command's opcode is an illegal one. -/
def AssignedOpcode.Statement (i : Instr) : Prop :=
  ∀ (rest : List Byte) (op : Byte), decode (i.opcode :: rest) ≠ .error (.illegalOpcode op)

theorem decode_ne_illegal (bs : List Byte) (op : Byte) (h : decodeHead bs ≠ .error (.illegalOpcode op)) :
    decode bs ≠ .error (.illegalOpcode op) := by
  unfold decode
  split
  · simp
  · simp
  · rename_i e he
    intro hc
    cases hc
    exact h he

theorem readList_ne_illegal (mk : List Byte → Instr) (n : Nat) (bs : List Byte) (op : Byte) :
    readList mk n bs ≠ .error (.illegalOpcode op) := by
  unfold readList; split <;> simp

theorem AssignedOpcode.decNibble (ch : Byte) : AssignedOpcode.Statement (.decNibble ch) := by
  intro rest op
  refine decode_ne_illegal _ op ?_
  simp only [Instr.opcode, decodeHead, readF1, BitVec.reduceToNat]
  split <;> simp

theorem AssignedOpcode.decByte (hi : Byte) (lo : Byte) : AssignedOpcode.Statement (.decByte hi lo) := by
  intro rest op
  refine decode_ne_illegal _ op ?_
  simp only [Instr.opcode, decodeHead, readF2, BitVec.reduceToNat]
  split <;> simp

theorem AssignedOpcode.encByte (b : Byte) : AssignedOpcode.Statement (.encByte b) := by
  intro rest op
  refine decode_ne_illegal _ op ?_
  simp only [Instr.opcode, decodeHead, readF1, BitVec.reduceToNat]
  split <;> simp

theorem AssignedOpcode.busDev : AssignedOpcode.Statement (.busDev) := by
  intro rest op
  refine decode_ne_illegal _ op ?_
  simp [Instr.opcode, decodeHead, readF0]

theorem AssignedOpcode.busCon : AssignedOpcode.Statement (.busCon) := by
  intro rest op
  refine decode_ne_illegal _ op ?_
  simp [Instr.opcode, decodeHead, readF0]

theorem AssignedOpcode.busDir : AssignedOpcode.Statement (.busDir) := by
  intro rest op
  refine decode_ne_illegal _ op ?_
  simp [Instr.opcode, decodeHead, readF0]

theorem AssignedOpcode.conWrite (bytes : List Byte) : AssignedOpcode.Statement (.conWrite bytes) := by
  intro rest op
  refine decode_ne_illegal _ op ?_
  simp only [Instr.opcode, decodeHead, readFW, BitVec.reduceToNat]
  split
  · exact readList_ne_illegal _ _ _ op
  · simp

theorem AssignedOpcode.sessionInit (bytes : List Byte) : AssignedOpcode.Statement (.sessionInit bytes) := by
  intro rest op
  refine decode_ne_illegal _ op ?_
  simp only [Instr.opcode, decodeHead, readFS, BitVec.reduceToNat]
  split
  · exact readList_ne_illegal _ _ _ op
  · simp

theorem AssignedOpcode.sendReq (flags : Byte) (bytes : List Byte) : AssignedOpcode.Statement (.sendReq flags bytes) := by
  intro rest op
  refine decode_ne_illegal _ op ?_
  simp only [Instr.opcode, decodeHead, readFR, BitVec.reduceToNat]
  split
  · exact readList_ne_illegal _ _ _ op
  · simp

theorem AssignedOpcode.getResp (cap : BitVec 16) : AssignedOpcode.Statement (.getResp cap) := by
  intro rest op
  refine decode_ne_illegal _ op ?_
  simp only [Instr.opcode, decodeHead, readF16, BitVec.reduceToNat]
  split <;> simp

theorem AssignedOpcode.popNotif : AssignedOpcode.Statement (.popNotif) := by
  intro rest op
  refine decode_ne_illegal _ op ?_
  simp [Instr.opcode, decodeHead, readF0]

theorem AssignedOpcode.ringAvail : AssignedOpcode.Statement (.ringAvail) := by
  intro rest op
  refine decode_ne_illegal _ op ?_
  simp [Instr.opcode, decodeHead, readF0]

theorem AssignedOpcode.cfgRead (idx : CfgIndex) : AssignedOpcode.Statement (.cfgRead idx) := by
  intro rest op
  refine decode_ne_illegal _ op ?_
  simp only [Instr.opcode, decodeHead, readF16, BitVec.reduceToNat]
  split <;> simp

theorem AssignedOpcode.cfgWrite (idx : CfgIndex) (v : CfgWord) : AssignedOpcode.Statement (.cfgWrite idx v) := by
  intro rest op
  refine decode_ne_illegal _ op ?_
  simp only [Instr.opcode, decodeHead, readFIV, BitVec.reduceToNat]
  split <;> simp

end Sys2Proof.Laws
end

