-- ==== Sys2Proof/Tests/Slice0.lean ====
section
/-! SUPPORT. Small tests. Expected results are those of spec/95_test_vectors.md (V.., W..) or worked out by hand from the
rules named; none comes from the model. Behind them, for every statement with hypotheses, a state and operands that meet
them. -/

open Sys2Proof Sys2Proof.Machine

namespace Sys2Proof.Tests

/-! ## Helpers -/

/-- The test configuration of 95_test_vectors.md section 0. -/
def testBuild : Build where
  ringCapacity := 4
  maxResponseLen := 8
  maxRequestLen := 8
  maxOobPayload := 2
  oobTable := [(0x0A, 1), (0x1A, 0), (0x79, 2), (0x81, 2)]
  channelReadTimeoutMs := 50
  rxFifoDepth := 64
  txFifoDepth := 64
  resetRespTimeoutMs := 500
  resetReqDelayMs := 30
  resetRelease := true

/-- That build right after reset. -/
def fresh : State := State.resetOf testBuild

/-- A session is open, the bus is on the device side (state S0 of 95_test_vectors.md section 2.4). -/
def session : State := { fresh with connected := true, dir := .toDevice }

/-- A request with id 0x79 is pending, and these characters are in RX. -/
def waiting (rx : List Byte) : State := { session with pendingId := 0x79, rx := rx }

/-- The state a command leads to; the state itself where it leads nowhere. -/
def after (i : Instr) (s : State) : State :=
  match exec i s with
  | .next t => t
  | .fault _ => s
  | .refused _ => s

/-- The result bytes a host reads (30_encoding.md R100). -/
def read (s : State) : Option (List Byte) := s.result.map Result.bytes

/-- The state a step leads to. -/
def stepped (s : State) : State :=
  match step s with
  | .next t => t
  | .fault _ => s
  | .refused _ => s

/-! ## WellFormed -/

theorem wf_conWrite (n : Nat) : (Instr.conWrite (List.replicate n 0)).wellFormed = decide (n ≤ 65535) := by
  simp [Instr.wellFormed, Instr.listOperand, Instr.listLimit]
theorem wf_sessionInit (n : Nat) : (Instr.sessionInit (List.replicate n 0)).wellFormed = decide (n ≤ 255) := by
  simp [Instr.wellFormed, Instr.listOperand, Instr.listLimit]
theorem wf_sendReq (n : Nat) : (Instr.sendReq 0xFF (List.replicate n 0)).wellFormed = decide (n ≤ 255) := by
  simp [Instr.wellFormed, Instr.listOperand, Instr.listLimit]
theorem test_wf_conWrite_limit : (Instr.conWrite (List.replicate 65535 0)).wellFormed = true :=
  (wf_conWrite 65535).trans (by decide)
theorem test_wf_conWrite_too_long : (Instr.conWrite (List.replicate 65536 0)).wellFormed = false :=
  (wf_conWrite 65536).trans (by decide)
theorem test_wf_sessionInit_limit : (Instr.sessionInit (List.replicate 255 0)).wellFormed = true :=
  (wf_sessionInit 255).trans (by decide)
theorem test_wf_sessionInit_too_long : (Instr.sessionInit (List.replicate 256 0)).wellFormed = false :=
  (wf_sessionInit 256).trans (by decide)
theorem test_wf_sendReq_limit : (Instr.sendReq 0xFF (List.replicate 255 0)).wellFormed = true :=
  (wf_sendReq 255).trans (by decide)
theorem test_wf_sendReq_too_long : (Instr.sendReq 0xFF (List.replicate 256 0)).wellFormed = false :=
  (wf_sendReq 256).trans (by decide)
theorem test_build_wf : testBuild.wf = true := by decide
/-- A slot count of 0, and a table entry beyond MAX_OOB_PAYLOAD, break 00_scope.md R7. -/
theorem test_build_not_wf : { testBuild with ringCapacity := 0 }.wf = false ∧
    { testBuild with oobTable := [(0x0A, 3)] }.wf = false := by decide

/-! ## Decode: records written out from 30_encoding.md R98, R99, R101 -/

theorem test_decode_decNibble : decode [0x01, 0x34] = .ok (.decNibble 0x34) := by decide
theorem test_decode_decByte : decode [0x02, 0x34, 0x44] = .ok (.decByte 0x34 0x44) := by decide
theorem test_decode_encByte : decode [0x03, 0x4D] = .ok (.encByte 0x4D) := by decide
theorem test_decode_busDev : decode [0x10] = .ok .busDev := by decide
theorem test_decode_busCon : decode [0x11] = .ok .busCon := by decide
theorem test_decode_busDir : decode [0x12] = .ok .busDir := by decide
theorem test_decode_conWrite : decode [0x13, 0x00, 0x02, 0x6F, 0x6B] = .ok (.conWrite [0x6F, 0x6B]) := by decide
theorem test_decode_sessionInit : decode [0x20, 0x01, 0x55] = .ok (.sessionInit [0x55]) := by decide
theorem test_decode_sendReq : decode [0x21, 0x01, 0x02, 0x79, 0x01] = .ok (.sendReq 0x01 [0x79, 0x01]) := by decide
theorem test_decode_getResp : decode [0x22, 0x01, 0x03] = .ok (.getResp 0x0103) := by decide
theorem test_decode_popNotif : decode [0x23] = .ok .popNotif := by decide
theorem test_decode_ringAvail : decode [0x24] = .ok .ringAvail := by decide
theorem test_decode_cfgRead : decode [0x30, 0x01, 0xFF] = .ok (.cfgRead 0x01FF) := by decide
theorem test_decode_cfgWrite : decode [0x31, 0x00, 0x01, 0x00, 0x00, 0x03, 0xE8] = .ok (.cfgWrite 0x0001 0x3E8) := by
  decide
theorem test_decode_partial : decode [0x20, 0x02, 0x55] = .error .truncated ∧ decode [0x10, 0x00] = .error .trailing := by
  decide
/-- Bit 0 is the least significant bit of the first byte: 0x4D03 is the record 03 4D. -/
theorem test_decodeTableWord : decodeTableWord 16 0x4D03 = some (.encByte 0x4D) ∧ decodeTableWord 8 0x25 = none := by
  decide
theorem test_recordOfWord : recordOfWord 16 0x4D03 = [0x03, 0x4D] ∧ recordOfWord 8 0x13 = [0x13, 0x00, 0x00] := by decide
theorem test_withFetchWord : fetch (fresh.withFetchWord 8 0x12) = .run .busDir fresh := by decide

/-! ## One command each -/

/-- V1. -/
theorem test_decNibble : read (after (.decNibble 0x64) fresh) = some [0x00, 0x0D] ∧
    read (after (.decNibble 0x47) fresh) = some [0x00, 0x00] := by decide
/-- V2. -/
theorem test_decByte : read (after (.decByte 0x37 0x67) fresh) = some [0x00, 0x70] ∧
    read (after (.decByte 0x67 0x37) fresh) = some [0x00, 0x07] := by decide
/-- V3. -/
theorem test_encByte : read (after (.encByte 0x0A) fresh) = some [0x00, 0x30, 0x41] ∧
    read (after (.encByte 0xA0) fresh) = some [0x00, 0x41, 0x30] := by decide
/-- V20. -/
theorem test_busDev : (after .busDev fresh).dir = .toDevice ∧ (after .busDev fresh).history =
    [.sel .toDevice, .result ⟨.ok, []⟩] := by decide
/-- V21a: TX drains, SEL does not toggle. -/
theorem test_busDev_flush :
    (after .busDev { session with tx := [0x41], inputs := [.tick 5, .emit] }).history =
      [.wire .toDevice 0x41, .result ⟨.ok, []⟩] := by decide
theorem test_busCon : (after .busCon session).dir = .toConsole := by decide
/-- V20. -/
theorem test_busDir : read (after .busDir fresh) = some [0x00, 0x00] ∧ read (after .busDir session) = some [0x00, 0x01] := by
  decide
/-- V21, V21b. -/
theorem test_conWrite : (after (.conWrite [0x6F, 0x6B]) session).tx = [0x6F, 0x6B] ∧
    (after (.conWrite []) session).dir = .toConsole := by decide
/-- V37. -/
theorem test_sessionInit : (after (.sessionInit [0x55]) fresh).connected = true ∧
    (after (.sessionInit [0x55]) fresh).tx = [0x55] := by decide
/-- V27. -/
theorem test_sendReq : (after (.sendReq 0x01 [0x79, 0x01]) session).pendingId = 0x79 ∧
    read (after (.sendReq 0x02 [0x79]) fresh) = some [0x01] := by decide
/-- V25: the spacing across the clock's rollover. -/
theorem test_sendReq_spacing :
    (after (.sendReq 0x01 [0x79])
      { session with lastSendValid := true, lastSend := 0xFFFFFFF0, now := 0x08, inputs := [.tick 6] }).lastSend = 0x0E := by
  decide
/-- W1. -/
theorem test_getResp : read (after (.getResp 3) (waiting [0x37, 0x39, 0x34, 0x44, 0x30, 0x32])) =
    some [0x00, 0x03, 0x79, 0x4D, 0x02] := by decide
/-- V22: no Timeout 499 ms after GET_T0, Timeout after 500 ms. -/
theorem test_getResp_timeout :
    read (after (.getResp 3) { waiting [] with inputs := [.seq, .tick 499] }) = none ∧
    read (after (.getResp 3) { waiting [] with inputs := [.seq, .tick 500] }) =
      some [0x04] := by decide
/-- V34: the odd byte stays. -/
theorem test_popNotif : read (after .popNotif { session with rx := [0x30, 0x41, 0x30, 0x35, 0x37] }) =
      some [0x00, 0x02, 0x0A, 0x05] ∧
    (after .popNotif { session with rx := [0x30, 0x41, 0x30, 0x35, 0x37] }).rx = [0x37] := by decide
/-- V32. -/
theorem test_popNotif_unknown :
    (after .popNotif { session with rx := [0x46, 0x46, 0x30, 0x41, 0x30, 0x35] }).history =
      [.log .unknownOob 0xFF, .sel .toConsole, .result ⟨.empty, []⟩] := by decide
/-- V14. -/
theorem test_ringAvail : read (after .ringAvail { session with rx := [0x30, 0x41, 0x30, 0x35] }) = some [0x00, 0x00] := by
  decide
/-- V40. -/
theorem test_cfgRead : read (after (.cfgRead 0x0001) fresh) = some [0x00, 0x00, 0x00, 0x01, 0xF4] ∧
    read (after (.cfgRead 0x010A) fresh) = some [0x00, 0x00, 0x00, 0x01, 0x01] := by decide
theorem test_cfgRead_param : read (after (.cfgRead 0x0009) fresh) = some [0x03] ∧
    read (after (.cfgRead 0x0200) fresh) = some [0x03] := by decide
/-- V41. -/
theorem test_cfgWrite : (after (.cfgWrite 0x0001 1000) fresh).respTimeoutMs = 1000 ∧
    (after (.cfgWrite 0x0003 0xFFFFFFFE) fresh).release = false := by decide
/-- The write and `finish` are two micro-steps (00_scope.md R11): behind the first the register is written and the command
still runs, and a reset there leaves no RESULT (70_reset_and_hazards.md R290). -/
theorem test_cfgWrite_boundary :
    (seqStep { fresh with phase := .busy (.cfgWrite 0x0001 1000) .start }).respTimeoutMs = 1000 ∧
    (after (.cfgWrite 0x0001 1000) { fresh with inputs := [.seq, .reset] }).result = none := by decide
/-- V11. -/
theorem test_ring_push_full :
    (Ring.push 4 ⟨List.replicate 4 ⟨1, [0xAA, 0, 0]⟩, 1, 1, 4⟩ [0x1A]) =
      ⟨[⟨1, [0xAA, 0, 0]⟩, ⟨1, [0x1A, 0, 0]⟩, ⟨1, [0xAA, 0, 0]⟩, ⟨1, [0xAA, 0, 0]⟩], 2, 2, 4⟩ := by decide
/-- An illegal opcode (30_encoding.md R102), and a record that is no command. -/
theorem test_step_illegal : read (stepped { fresh with inputs := [.command [0x25]] }) = some [0x08] := by decide
theorem test_step_partial : step { fresh with inputs := [.command [0x02, 0x34]] } = .fault .partialRecord := by rfl

/-! ## Witnesses: a state and operands that meet each statement's hypotheses -/

theorem fresh_ready : fresh.ready := ⟨rfl, rfl⟩
theorem session_ready : session.ready := ⟨rfl, rfl⟩

/-- What the invariant asks of a state whose ring is empty and whose command has no response length recorded. -/
theorem inv_of_simple (s : State) (hb : s.build.wf = true) (hm : Memory.wf s) (hi : s.ring.rd < s.build.ringCapacity)
    (hc : s.ring.count = 0) (hw : s.ring.wr = s.ring.rd) (hmt : s.matched = false) (he : s.expectedLen = 0)
    (hp : s.positionSound) : s.Inv where
  build := hb
  memory := hm
  indexed := ⟨hi, by omega, by rw [hw, hc, Nat.add_zero, Nat.mod_eq_of_lt hi]⟩
  framed := by intro k hk; omega
  matched := by intro h; simp [hmt] at h
  length := by intro h; exact absurd he h
  position := hp

theorem fresh_inv : fresh.Inv := by
  refine inv_of_simple _ (by decide) (by decide) (by decide) rfl rfl rfl rfl ?_
  intro cmd μ h
  simp [fresh, State.resetOf] at h

theorem session_inv : session.Inv := by
  refine inv_of_simple _ (by decide) (by decide) (by decide) rfl rfl rfl rfl ?_
  intro cmd μ h
  simp [session, fresh, State.resetOf] at h

/-- BUS_DEV stands before its selector write, with TX empty. -/
def steering : State := { fresh with phase := .busy .busDev (.steer .toDevice (.finish .ok [])) }

theorem steering_inv : steering.Inv := by
  refine inv_of_simple _ (by decide) (by decide) (by decide) rfl rfl rfl rfl ?_
  intro cmd μ h
  simp only [steering, Phase.busy.injEq] at h
  obtain ⟨rfl, rfl⟩ := h
  refine ⟨by simp [Micro.leaf], by simp [Micro.leaf], by simp [Micro.leaf], by simp [Micro.leaf], trivial, ?_⟩
  exact .inr ⟨_, _, rfl, rfl, rfl⟩

/-- GET_RESP stands before its CLEAR_PENDING. -/
def clearing : State := { waiting [] with phase := .busy (.getResp 3) (.clear .timeout []) }

theorem clearing_inv : clearing.Inv := by
  refine inv_of_simple _ (by decide) (by decide) (by decide) rfl rfl rfl rfl ?_
  intro cmd μ h
  simp only [clearing, Phase.busy.injEq] at h
  obtain ⟨rfl, rfl⟩ := h
  exact ⟨by simp [Micro.leaf], by simp [Micro.leaf], by simp [Micro.leaf], by simp [Micro.leaf], trivial, .inl rfl⟩

theorem witness_DecodeOfEncode : Instr.busDev.wellFormed = true ∧
    (Instr.sendReq 0xFF (List.replicate 255 0)).wellFormed = true ∧
    (Instr.conWrite (List.replicate 65535 0)).wellFormed = true :=
  ⟨by decide, test_wf_sendReq_limit, test_wf_conWrite_limit⟩
theorem witness_EncodeOfDecode : decode [0x13, 0x00, 0x00] = .ok (.conWrite []) := by decide
theorem witness_RecordLengthIsFoundFromItsHead : (Instr.sessionInit (List.replicate 255 0)).wellFormed = true :=
  test_wf_sessionInit_limit
theorem witness_IllegalOpcodesCompleteWithIllegalOp :
    (∀ op ∈ ([0x00, 0x04, 0x0F, 0x14, 0x1F, 0x25, 0x2F, 0x32, 0xFF] : List Byte),
      op = 0x00 ∨ (0x04 ≤ op ∧ op ≤ 0x0F) ∨ (0x14 ≤ op ∧ op ≤ 0x1F) ∨ (0x25 ≤ op ∧ op ≤ 0x2F) ∨ 0x32 ≤ op) ∧
    (let s : State := { fresh with inputs := [.command [0xFF]] }
     s.phase = .idle ∧ s.inputs = .command (0xFF :: []) :: []) := ⟨by decide, rfl, rfl⟩
theorem witness_HexvalFollowsItsTable :
    (∀ x ∈ ([0x30, 0x39] : List Byte), 0x30 ≤ x ∧ x ≤ 0x39) ∧ (∀ x ∈ ([0x41, 0x46] : List Byte), 0x41 ≤ x ∧ x ≤ 0x46) ∧
    (∀ x ∈ ([0x61, 0x66] : List Byte), 0x61 ≤ x ∧ x ≤ 0x66) ∧
    (∀ x ∈ ([0x00, 0x2F, 0x3A, 0x40, 0x47, 0x60, 0x67, 0xFF] : List Byte),
      ¬(0x30 ≤ x ∧ x ≤ 0x39) ∧ ¬(0x41 ≤ x ∧ x ≤ 0x46) ∧ ¬(0x61 ≤ x ∧ x ≤ 0x66)) := by decide
theorem witness_HexEncodingRoundTrips : (9 : Nibble).toNat ≤ 9 ∧ 10 ≤ (10 : Nibble).toNat ∧ 10 ≤ (15 : Nibble).toNat := by
  decide
theorem witness_CodecCommandsAnswer : fresh.ready := fresh_ready
theorem witness_BusCommandsSwitch : fresh.ready ∧ fresh.tx = [] := ⟨fresh_ready, rfl⟩
theorem witness_BusCommandsFlushBeforeTheySwitch :
    let s : State := { session with tx := [0x41, 0x42], inputs := [.seq, .emit, .seq, .seq] ++ .emit :: [] }
    s.phase = .idle ∧ s.inputs = [.seq, .emit, .seq, .seq] ++ .emit :: [] ∧
      (∀ e ∈ ([.seq, .emit, .seq, .seq] : List Input), e = .seq ∨ e = .emit) ∧
      ([.seq, .emit, .seq, .seq] : List Input).count .emit + 1 = s.tx.length ∧ QuietInputs s.source [] :=
  ⟨rfl, rfl, by decide, by decide, rfl⟩
theorem witness_SwitchingCommandsWaitForTheFlush :
    let s : State := { session with tx := [0x41] }
    let p : State := { waiting [] with tx := [0x41] }
    let f : State := { fresh with tx := [0x41] }
    (s.ready ∧ s.tx ≠ [] ∧ s.connected = true ∧ s.pendingId = 0 ∧ (0x01 : Byte).extractLsb' 1 7 = 0 ∧
      ([1, 2, 3, 4, 5, 6, 7, 8] : List Byte) ≠ [] ∧ ([1, 2, 3, 4, 5, 6, 7, 8] : List Byte).length ≤ s.build.maxRequestLen ∧
      s.release = true) ∧
    (p.ready ∧ p.tx ≠ [] ∧ p.pendingId ≠ 0 ∧ (8 : BitVec 16) ≠ 0 ∧ (8 : BitVec 16).toNat ≤ p.build.maxResponseLen ∧
      p.release = true ∧ (0 : BitVec 16) = 0 ∧ p.build.maxResponseLen < (9 : BitVec 16).toNat) ∧
    (f.ready ∧ f.tx ≠ [] ∧ f.release = true ∧ f.connected = false) :=
  ⟨⟨⟨rfl, rfl⟩, by decide⟩, ⟨⟨rfl, rfl⟩, by decide⟩, ⟨⟨rfl, rfl⟩, by decide⟩⟩

/-- This command waits in its flush, for the one byte in TX, which goes out next. -/
def flushing (cmd : Instr) (d : Direction) (next : Micro) : State :=
  { waiting [] with tx := [0x41], inputs := [.emit], phase := .busy cmd (.wait (.flush d next)) }

theorem witness_FlushWaitsEndWithTheLastByte :
    (∀ cmd d next, (flushing cmd d next).tx ≠ [] ∧
      (flushing cmd d next).inputs = List.replicate (flushing cmd d next).tx.length .emit ++ [] ∧
      QuietInputs (flushing cmd d next).source [] ∧ (flushing cmd d next).phase = .busy cmd (.wait (.flush d next))) ∧
    (let bytes := List.replicate 64 (0x55 : Byte)
     bytes.length ≤ (flushing (.conWrite bytes) .toConsole (.push bytes (.finish .ok []))).build.txFifoDepth) ∧
    (let late : State :=
      { flushing (.sendReq 0x01 [0x79]) .toDevice .spacing with lastSendValid := true, lastSend := 1000, now := 1030 }
     late.lastSendValid = true → late.reqDelayMs ≤ late.now - late.lastSend) ∧
    ((flushing (.getResp 8) .toDevice .respLen).matched = false ∧
      (flushing (.getResp 8) .toDevice .respLen).rx.length < 2) ∧
    ((flushing .popNotif .toDevice .popMatched).rx.length < 2 ∧
      (flushing .popNotif .toDevice .popMatched).ring.count = 0) :=
  ⟨fun _ _ _ => ⟨by simp [flushing], rfl, rfl, rfl⟩, by decide, by decide, by decide, by decide⟩
theorem witness_BusDirAnswersTheDirection : fresh.ready ∧ session.ready := ⟨fresh_ready, session_ready⟩
theorem witness_ConWriteQueuesItsBytes :
    session.ready ∧ session.tx = [] ∧ (List.replicate 64 (0x6F : Byte)).length ≤ session.build.txFifoDepth :=
  ⟨session_ready, rfl, by decide⟩
theorem witness_TransmissionWaitsForRoom :
    let b := { testBuild with txFifoDepth := 1 }
    let s : State := { session with build := b }
    let w (cmd : Instr) (next : Micro) (left : List Byte) (k : Nat) : State :=
      { s with tx := [0x79], phase := .busy cmd (.wait (.push left next)), inputs := List.replicate k .emit }
    (s.ready ∧ s.tx = [] ∧ s.build.txFifoDepth < ([0x79, 0x01] : List Byte).length ∧ s.connected = true ∧ s.pendingId = 0 ∧
      (0x01 : Byte).extractLsb' 1 7 = 0 ∧ ([0x79, 0x01] : List Byte).length ≤ s.build.maxRequestLen ∧
      (s.lastSendValid = true → s.reqDelayMs ≤ s.now - s.lastSend)) ∧
    (∀ cmd next left, ∀ k ≤ 1,
      (w cmd next left k).tx.length = (w cmd next left k).build.txFifoDepth ∧ k ≤ (w cmd next left k).tx.length ∧
      (w cmd next left k).inputs = List.replicate k .emit ++ [] ∧ QuietInputs (w cmd next left k).source [] ∧
      (w cmd next left k).phase = .busy cmd (.wait (.push left next))) :=
  ⟨⟨⟨rfl, rfl⟩, by decide⟩, fun _ _ _ _ hk => ⟨rfl, hk, by simp, rfl, rfl⟩⟩
theorem witness_SelectorChangesOnlyWithTxDrained :
    (steering.Inv ∧ (steering.move .seq).dir ≠ steering.dir) ∧
    (session.Inv ∧ (session.move .reset).dir ≠ session.dir) :=
  ⟨⟨steering_inv, by decide⟩, session_inv, by decide⟩
theorem witness_SessionInitConnects :
    fresh.ready ∧ fresh.tx = [] ∧ (List.replicate 64 (0x55 : Byte)).length ≤ fresh.build.txFifoDepth :=
  ⟨fresh_ready, rfl, by decide⟩
theorem witness_OnlySessionInitConnects :
    let s : State := { fresh with phase := .busy (.sessionInit []) .connect }
    (s.move .seq).connected ≠ s.connected ∧ (session.move .reset).connected ≠ session.connected := by decide
theorem witness_SendReqRefusesInOrder :
    (fresh.ready ∧ fresh.connected = false) ∧
    ((waiting []).ready ∧ (waiting []).connected = true ∧ (waiting []).pendingId ≠ 0) ∧
    (session.ready ∧ session.connected = true ∧ session.pendingId = 0 ∧ (0x02 : Byte).extractLsb' 1 7 ≠ 0 ∧
      ([] : List Byte).length = 0 ∧ session.build.maxRequestLen < (List.replicate 9 (0 : Byte)).length) :=
  ⟨⟨fresh_ready, rfl⟩, ⟨⟨rfl, rfl⟩, by decide⟩, ⟨session_ready, by decide⟩⟩

/-- The last request is exactly REQ_DELAY_MS old. -/
def spaced : State := { session with lastSendValid := true, lastSend := 1000, now := 1030 }

/-- The last request is one millisecond younger. -/
def tooEarly : State := { session with lastSendValid := true, lastSend := 1000, now := 1029 }

theorem witness_SendReqSends :
    spaced.ready ∧ spaced.connected = true ∧ spaced.pendingId = 0 ∧ (0x01 : Byte).extractLsb' 1 7 = 0 ∧
    ([1, 2, 3, 4, 5, 6, 7, 8] : List Byte) ≠ [] ∧
    ([1, 2, 3, 4, 5, 6, 7, 8] : List Byte).length ≤ spaced.build.maxRequestLen ∧ spaced.tx = [] ∧
    ([1, 2, 3, 4, 5, 6, 7, 8] : List Byte).length ≤ spaced.build.txFifoDepth ∧
    (spaced.lastSendValid = true → spaced.reqDelayMs ≤ spaced.now - spaced.lastSend) := ⟨⟨rfl, rfl⟩, by decide⟩
theorem witness_SendReqWaitsForTheSpacing :
    let w : State := { tooEarly with phase := .busy (.sendReq 0x01 [0x79]) (.wait .spacing), inputs := [.tick 1] }
    (tooEarly.ready ∧ tooEarly.connected = true ∧ tooEarly.pendingId = 0 ∧ (0x01 : Byte).extractLsb' 1 7 = 0 ∧
      ([0x79] : List Byte) ≠ [] ∧ ([0x79] : List Byte).length ≤ tooEarly.build.maxRequestLen ∧ tooEarly.tx = [] ∧
      tooEarly.lastSendValid = true ∧ tooEarly.now - tooEarly.lastSend < tooEarly.reqDelayMs) ∧
    (w.phase = .busy (.sendReq 0x01 [0x79]) (.wait .spacing) ∧ w.inputs = .tick 1 :: [] ∧
      QuietInputs w.source [] ∧ w.lastSendValid = true ∧ w.tx = [] ∧ ([0x79] : List Byte).length ≤ w.build.txFifoDepth) :=
  ⟨⟨⟨rfl, rfl⟩, by decide⟩, rfl, rfl, rfl, by decide⟩
theorem witness_RequestsAreNeverEarly :
    let s : State := { spaced with phase := .busy (.sendReq 0x01 [0x79]) .spacing }
    Micro.spacing.leaf ≠ .setPending ∧ (seqStep s).phase = .busy (.sendReq 0x01 [0x79]) .setPending ∧
      s.lastSendValid = true := by decide
theorem witness_GetRespRefusesInOrder :
    (session.ready ∧ (session.release = true → session.tx = []) ∧ session.pendingId = 0) ∧
    ((waiting []).ready ∧ ((waiting []).release = true → (waiting []).tx = []) ∧ (waiting []).pendingId ≠ 0 ∧
      (0 : BitVec 16) = 0 ∧ (waiting []).build.maxResponseLen < (9 : BitVec 16).toNat) :=
  ⟨⟨session_ready, by decide⟩, ⟨⟨rfl, rfl⟩, by decide⟩⟩

/-- RX holds `"794D02"`, and one more byte. -/
def answeredRx : State := waiting ([0x37, 0x39, 0x34, 0x44, 0x30, 0x32] ++ [0x30])

theorem witness_GetRespReturnsTheResponse :
    answeredRx.ready ∧ answeredRx.tx = [] ∧ answeredRx.pendingId ≠ 0 ∧ answeredRx.matched = false ∧
    (3 : BitVec 16) ≠ 0 ∧ (3 : BitVec 16).toNat ≤ answeredRx.build.maxResponseLen ∧
    answeredRx.build.maxResponseLen ≤ 255 ∧ answeredRx.respBuf.length = answeredRx.build.maxResponseLen ∧
    answeredRx.rx = 0x37 :: 0x39 :: [0x34, 0x44, 0x30, 0x32] ++ [0x30] ∧ pair 0x37 0x39 = answeredRx.pendingId ∧
    ([0x34, 0x44, 0x30, 0x32] : List Byte).length = 2 * ((3 : BitVec 16).toNat - 1) := ⟨⟨rfl, rfl⟩, by decide⟩
theorem witness_GetRespGoesOnFromTheProbe :
    let s : State := { waiting [0x34, 0x44] with matched := true, respBuf := [0x79, 0, 0, 0, 0, 0, 0, 0] }
    s.ready ∧ s.tx = [] ∧ s.pendingId ≠ 0 ∧ s.matched = true ∧ (2 : BitVec 16) ≠ 0 ∧
    (2 : BitVec 16).toNat ≤ s.build.maxResponseLen ∧ s.build.maxResponseLen ≤ 255 ∧
    s.respBuf = 0x79 :: [0, 0, 0, 0, 0, 0, 0] ∧ s.respBuf.length = s.build.maxResponseLen ∧
    s.rx = [0x34, 0x44] ++ [] ∧ ([0x34, 0x44] : List Byte).length = 2 * ((2 : BitVec 16).toNat - 1) :=
  ⟨⟨rfl, rfl⟩, by decide⟩
/-- `0a05`, in lower case, and `Z` for the 0 of `0A05`, are the notification 0A 05 to a block that waits for 79. -/
theorem isNotification_0A (rx : List Byte) : (waiting rx).isNotification [0x30, 0x61, 0x30, 0x35] ∧
    (waiting rx).isNotification [0x5A, 0x41, 0x30, 0x35] :=
  ⟨⟨0x30, 0x61, [0x30, 0x35], 1, rfl, .inr (by decide : pair 0x30 0x61 ≠ (0x79 : Byte)), rfl, rfl⟩,
    ⟨0x5A, 0x41, [0x30, 0x35], 1, rfl, .inr (by decide : pair 0x5A 0x41 ≠ (0x79 : Byte)), rfl, rfl⟩⟩

/-- W4's stream, the first notification in lower case and a second malformed: 0A 05 twice, then the response 79. -/
theorem witness_NotificationsBeforeAResponseGoToTheRing :
    let notifs : List (List Byte) := [[0x30, 0x61, 0x30, 0x35], [0x5A, 0x41, 0x30, 0x35]]
    let s := waiting (notifs.flatten ++ [0x37, 0x39])
    let z : State := { s with respTimeoutMs := 0 }
    (s.ready ∧ s.tx = [] ∧ s.pendingId ≠ 0 ∧ s.matched = false ∧ (1 : BitVec 16) ≠ 0 ∧
      (1 : BitVec 16).toNat ≤ s.build.maxResponseLen ∧ s.build.maxResponseLen ≤ 255 ∧
      s.respBuf.length = s.build.maxResponseLen ∧ (∀ f ∈ notifs, s.isNotification f) ∧ pair 0x37 0x39 = s.pendingId ∧
      ([] : List Byte).length = 2 * ((1 : BitVec 16).toNat - 1) ∧
      s.rx = notifs.flatten ++ (0x37 :: 0x39 :: [] ++ []) ∧ s.respTimeoutMs ≠ 0) ∧
    (z.ready ∧ z.tx = [] ∧ (∀ f ∈ notifs, z.isNotification f) ∧ z.respTimeoutMs = 0 ∧
      notifs = [0x30, 0x61, 0x30, 0x35] :: [[0x5A, 0x41, 0x30, 0x35]]) := by
  have h : ∀ rx, ∀ f ∈ ([[0x30, 0x61, 0x30, 0x35], [0x5A, 0x41, 0x30, 0x35]] : List (List Byte)),
      (waiting rx).isNotification f := by
    intro rx f hf
    simp only [List.mem_cons, List.not_mem_nil, or_false] at hf
    rcases hf with rfl | rfl
    · exact (isNotification_0A rx).1
    · exact (isNotification_0A rx).2
  exact ⟨⟨⟨rfl, rfl⟩, by decide, by decide, by decide, by decide, by decide, by decide, by decide, h _, by decide, by decide,
    by decide, by decide⟩, ⟨rfl, rfl⟩, by decide, h [], by decide, rfl⟩
theorem witness_GetRespWaitsForTheResponse :
    let s := waiting [0x37]
    let z : State := { waiting [] with respTimeoutMs := 0 }
    (s.ready ∧ s.tx = [] ∧ s.pendingId ≠ 0 ∧ s.matched = false ∧ (8 : BitVec 16) ≠ 0 ∧
      (8 : BitVec 16).toNat ≤ s.build.maxResponseLen ∧ s.rx.length < 2 ∧ s.respTimeoutMs ≠ 0) ∧
    (z.ready ∧ z.tx = [] ∧ z.pendingId ≠ 0 ∧ z.matched = false ∧ (1 : BitVec 16) ≠ 0 ∧
      (1 : BitVec 16).toNat ≤ z.build.maxResponseLen ∧ z.rx.length < 2 ∧ z.respTimeoutMs = 0) :=
  ⟨⟨⟨rfl, rfl⟩, by decide⟩, ⟨⟨rfl, rfl⟩, by decide⟩⟩
theorem witness_GetRespTimesOutAtItsDeadline :
    let s : State := { waiting [0x37] with phase := .busy (.getResp 3) (.wait .respLoop), now := 499, inputs := [.tick 1] }
    let a (rx : List Byte) (b n : Byte) : State :=
      { waiting rx with
        phase := .busy (.getResp 3) (.wait .respLoop), now := 499, inputs := [.arrive .toDevice b], expectedLen := n }
    (s.phase = .busy (.getResp 3) (.wait .respLoop) ∧ s.inputs = .tick 1 :: [] ∧ QuietInputs s.source [] ∧
      s.matched = false ∧ s.rx.length < 2 ∧ (s.release = true → s.tx = [])) ∧
    (∀ rx b n, (a rx b n).phase = .busy (.getResp 3) (.wait .respLoop) ∧
      (a rx b n).inputs = .arrive (a rx b n).dir b :: [] ∧ QuietInputs (a rx b n).source [] ∧
      (a rx b n).matched = false ∧ 2 ≤ (a rx b n).build.rxFifoDepth ∧
      (a rx b n).now - (a rx b n).getT0 < (a rx b n).respTimeoutMs ∧ (a rx b n).rx = rx) ∧
    ((a [0x37] 0x39 1).pendingId ≠ 0 ∧ pair 0x37 0x39 = (a [0x37] 0x39 1).pendingId ∧ (a [0x37] 0x39 1).expectedLen = 1 ∧
      (a [0x37] 0x39 1).respBuf ≠ [] ∧ ((a [0x37] 0x39 1).release = true → (a [0x37] 0x39 1).tx = [])) ∧
    (1 < (a [0x37] 0x39 2).expectedLen.toNat ∧ (a [0x37] 0x39 2).build.channelReadTimeoutMs ≠ 0) ∧
    (a [0x31] 0x41 3).isNotification [0x31, 0x41] :=
  ⟨⟨rfl, rfl, rfl, by decide⟩, fun _ _ _ => ⟨rfl, rfl, rfl, rfl, (by decide : 2 ≤ 64), (by decide : (499 : Time) - 0 < 500), rfl⟩,
    by decide, by decide,
    ⟨0x31, 0x41, [], 0, rfl, .inr (by decide), rfl, rfl⟩⟩
theorem witness_TimeoutIsNeverEarly :
    let s : State := { waiting [] with phase := .busy (.getResp 3) (.respDeadline .none), now := 500 }
    (∀ st d, (Micro.respDeadline .none).leaf ≠ .clear st d) ∧
      (seqStep s).phase = .busy (.getResp 3) (.clear .timeout []) := ⟨by simp [Micro.leaf], by decide⟩
theorem witness_ShortReadsEndAtTheChannelTimeout :
    let w (cmd : Instr) (n : Nat) (got : List Byte) (k : Reader) (e : Input) : State :=
      { waiting [] with
        phase := .busy cmd (.wait (.reading n 0 got k)), now := 49, inputs := [e], respBuf := [0x79, 0, 0, 0, 0, 0, 0, 0],
        expectedLen := 3 }
    (∀ cmd n got k e, (w cmd n got k e).phase = .busy cmd (.wait (.reading n 0 got k)) ∧ (w cmd n got k e).inputs = e :: [] ∧
      QuietInputs (w cmd n got k e).source [] ∧ (w cmd n got k e).rx = [] ∧
      ((w cmd n got k e).release = true → (w cmd n got k e).tx = []) ∧ (w cmd n got k e).matched = false ∧
      (w cmd n got k e).dir = .toDevice ∧ 1 ≤ (w cmd n got k e).build.rxFifoDepth ∧
      (w cmd n got k e).now - 0 < (w cmd n got k e).build.channelReadTimeoutMs ∧
      (w cmd n got k e).respBuf = 0x79 :: [0, 0, 0, 0, 0, 0, 0] ∧ (w cmd n got k e).expectedLen.toNat = 2 + 1) ∧
    (4 = 2 * 2 ∧ ([0x34, 0x44, 0x30] : List Byte).length < 4 ∧ ([0x34, 0x44] : List Byte).length + 1 < 4 ∧
      ([0x34, 0x44, 0x30] : List Byte).length + 1 = 4 ∧ 2 ≤ ([0, 0, 0, 0, 0, 0, 0] : List Byte).length) ∧
    (2 = 2 * 1 ∧ ([] : List Byte).length < 2 ∧ ([] : List Byte).length + 1 < 2 ∧
      ([0x30] : List Byte).length + 1 = 2) := by
  exact ⟨fun _ _ _ _ _ => ⟨rfl, rfl, rfl, rfl, fun _ => rfl, rfl, rfl, (by decide : 1 ≤ 64), (by decide : (49 : Time) - 0 < 50),
    rfl, rfl⟩, by decide, by decide⟩
theorem witness_GetRespReadsAShortPayload :
    let s := waiting [0x37, 0x39, 0x34]
    let z : State := { waiting [0x37, 0x39, 0x34] with build := { testBuild with channelReadTimeoutMs := 0 } }
    (s.ready ∧ s.tx = [] ∧ s.pendingId ≠ 0 ∧ s.matched = false ∧ (2 : BitVec 16) ≠ 0 ∧
      (2 : BitVec 16).toNat ≤ s.build.maxResponseLen ∧ s.build.maxResponseLen ≤ 255 ∧ s.rx = 0x37 :: 0x39 :: [0x34] ∧
      pair 0x37 0x39 = s.pendingId ∧ ([0x34] : List Byte).length < 2 * ((2 : BitVec 16).toNat - 1) ∧
      s.build.channelReadTimeoutMs ≠ 0) ∧
    (z.ready ∧ z.tx = [] ∧ z.pendingId ≠ 0 ∧ z.matched = false ∧ z.rx = 0x37 :: 0x39 :: [0x34] ∧
      z.build.channelReadTimeoutMs = 0) := ⟨⟨⟨rfl, rfl⟩, by decide⟩, ⟨⟨rfl, rfl⟩, by decide⟩⟩
theorem witness_APendingRequestIsOnlyCleared :
    clearing.Inv ∧ clearing.pendingId ≠ 0 ∧ (clearing.move .seq).pendingId ≠ clearing.pendingId ∧
      (clearing.move .reset).pendingId ≠ clearing.pendingId := ⟨clearing_inv, by decide⟩
theorem witness_PopNotifNeedsASession :
    fresh.ready ∧ fresh.connected = false ∧ (fresh.release = true → fresh.tx = []) := ⟨fresh_ready, by decide⟩

/-- The ring holds the frame 1A. -/
def oneFrame : State := { session with ring := session.ring.push 4 [0x1A] }

theorem witness_PopNotifReturnsTheOldestFrame :
    let m : State := { oneFrame with matched := true, rx := [0x34, 0x44] }
    (session.ready ∧ session.tx = [] ∧ session.connected = true ∧ session.rx.length < 2 ∧ session.ring.count = 0) ∧
    (m.ready ∧ m.tx = [] ∧ m.connected = true ∧ m.matched = true ∧ m.ring.count ≠ 0) :=
  ⟨⟨session_ready, by decide⟩, ⟨⟨rfl, rfl⟩, by decide⟩⟩
theorem witness_PopNotifDecodesWhatArrived :
    let s := waiting [0x30, 0x61, 0x30, 0x35, 0x37]
    s.ready ∧ s.tx = [] ∧ s.connected = true ∧ s.matched = false ∧
    (∀ f ∈ ([[0x30, 0x61, 0x30, 0x35]] : List (List Byte)), s.isNotification f) ∧
    s.rx = [[0x30, 0x61, 0x30, 0x35]].flatten ++ [0x37] ∧ ([0x37] : List Byte).length < 2 ∧
    (([[0x30, 0x61, 0x30, 0x35]].map decodePairs).foldl (Ring.push s.build.ringCapacity) s.ring).count ≠ 0 ∧
    ((([] : List (List Byte)).map decodePairs).foldl (Ring.push s.build.ringCapacity) s.ring).count = 0 := by
  refine ⟨⟨rfl, rfl⟩, by decide, by decide, by decide, ?_, by decide, by decide, by decide, by decide⟩
  intro f hf
  rw [List.mem_singleton] at hf
  exact hf ▸ (isNotification_0A _).1
theorem witness_PopNotifProbeLatchesTheMatch :
    let s := waiting [0x37, 0x39]
    let r : State := { s with ring := oneFrame.ring }
    (s.ready ∧ s.tx = [] ∧ s.connected = true ∧ s.matched = false ∧ s.expectedLen = 0 ∧ s.pendingId ≠ 0 ∧
      s.rx = 0x37 :: 0x39 :: [] ∧ pair 0x37 0x39 = s.pendingId ∧ s.ring.count = 0 ∧ s.respBuf ≠ []) ∧
    (r.ready ∧ r.tx = [] ∧ r.rx = 0x37 :: 0x39 :: [] ∧ r.ring.count ≠ 0) :=
  ⟨⟨⟨rfl, rfl⟩, by decide⟩, ⟨rfl, rfl⟩, by decide⟩
theorem witness_UnknownIdsDiscardRx :
    let s := waiting [0x46, 0x46, 0x30]
    let r : State := { s with ring := oneFrame.ring, respTimeoutMs := 0 }
    (s.ready ∧ s.tx = [] ∧ s.connected = true ∧ s.matched = false ∧ pair 0x46 0x46 ≠ s.pendingId ∧
      s.build.oobLen (pair 0x46 0x46) = none ∧ s.rx = 0x46 :: 0x46 :: [0x30] ∧ s.ring.count = 0 ∧ s.pendingId ≠ 0 ∧
      (8 : BitVec 16) ≠ 0 ∧ (8 : BitVec 16).toNat ≤ s.build.maxResponseLen ∧ s.respTimeoutMs ≠ 0) ∧
    (r.ready ∧ r.tx = [] ∧ r.connected = true ∧ r.matched = false ∧ pair 0x46 0x46 ≠ r.pendingId ∧
      r.build.oobLen (pair 0x46 0x46) = none ∧ r.rx = 0x46 :: 0x46 :: [0x30] ∧ r.ring.count ≠ 0 ∧
      r.respTimeoutMs = 0) := ⟨⟨⟨rfl, rfl⟩, by decide⟩, ⟨rfl, rfl⟩, by decide⟩

/-- POP_NOTIF scans, and the device offers `1A` again and again. -/
def chattering : State :=
  let round := [0x31, 0x41].map (Input.arrive .toDevice) ++ List.replicate 12 .seq
  { session with phase := .busy .popNotif .popLoop, inputs := round, source := .cycle round }

theorem witness_PopNotifScansWithoutEnd :
    chattering.phase = .busy .popNotif .popLoop ∧ chattering.rx = [] ∧ chattering.isNotification [0x31, 0x41] ∧
    ([0x31, 0x41] : List Byte).length ≤ chattering.build.rxFifoDepth ∧
    chattering.inputs = [0x31, 0x41].map (.arrive chattering.dir) ++
      List.replicate (([0x31, 0x41] : List Byte).length + 10) .seq ∧ chattering.source = .cycle chattering.inputs :=
  ⟨rfl, rfl, ⟨0x31, 0x41, [], 0, rfl, .inl rfl, rfl, rfl⟩, by decide, rfl, rfl⟩
theorem witness_RingAvailAnswersTheCount : oneFrame.ready := ⟨rfl, rfl⟩

/-- V11's full ring. -/
def fullRing : Machine.Ring := ⟨List.replicate 4 ⟨1, [0xAA, 0, 0]⟩, 1, 1, 4⟩

theorem witness_RingIsAFifoThatOverwrites :
    (fullRing.indexed 4 ∧ fullRing.slots.length = 4 ∧ (∀ t ∈ fullRing.slots, ([0x1A, 1, 2] : List Byte).length ≤ t.fb.length) ∧
      fullRing.count = 4) ∧
    (fresh.ring.indexed 4 ∧ fresh.ring.slots.length = 4 ∧ fresh.ring.count ≠ 4) :=
  ⟨⟨⟨by decide, by decide, by decide⟩, by decide⟩, ⟨by decide, by decide, by decide⟩, by decide⟩
theorem witness_RingHoldsTheLastFrames :
    fresh.ring.indexed 4 ∧ fresh.ring.slots.length = 4 ∧ fresh.ring.count = 0 ∧
    (∀ t ∈ fresh.ring.slots, t.fb.length = 3) ∧ (∀ f ∈ List.replicate 6 ([0x0A, 1, 2] : List Byte), f.length ≤ 3) :=
  ⟨⟨by decide, by decide, by decide⟩, by decide⟩
theorem witness_RingInvariantsHoldAtEveryBoundary : fresh.ring.indexed fresh.build.ringCapacity :=
  ⟨by decide, by decide, by decide⟩
theorem witness_OnlyPushAndPopChangeTheRing :
    let push : State := { session with phase := .busy .popNotif (.oobPush [0x1A]) }
    let pop : State := { oneFrame with phase := .busy .popNotif .popRing }
    (push.move .seq).ring ≠ push.ring ∧ (pop.move .seq).ring ≠ pop.ring ∧ (oneFrame.move .reset).ring ≠ oneFrame.ring := by
  decide
theorem witness_CfgReadAnswersTheRegister : fresh.ready ∧
    ((0x0009 : CfgIndex) ≤ 0x0009 ∧ (0x0009 : CfgIndex) ≤ 0x00FF) ∧
    ((0x0009 : CfgIndex) ≤ 0x00FF ∧ (0x00FF : CfgIndex) ≤ 0x00FF) ∧ (0x0200 : CfgIndex) ≤ 0x0200 ∧
    (0x0200 : CfgIndex) ≤ 0xFFFF := ⟨fresh_ready, by decide⟩
theorem witness_CfgWriteWritesTheWritableRegisters : fresh.ready ∧ (0x0000 : CfgIndex) = 0x0000 ∧
    (0x0004 : CfgIndex) ≤ 0x0004 ∧ (0x0004 : CfgIndex) ≤ 0xFFFF := ⟨fresh_ready, by decide⟩
theorem witness_StepRunsTheDecodedCommand :
    let s : State := { fresh with inputs := [.command [0x12]] }
    s.phase = .idle ∧ s.inputs = .command [0x12] :: [] ∧ decode [0x12] = .ok .busDir := by decide
theorem witness_StepOtherwiseGoesOn :
    steering.phase = .busy .busDev (.steer .toDevice (.finish .ok [])) ∧
    (fresh.phase = .idle ∧ fresh.inputs = [] ∧ fresh.source = .ends) ∧
    (let s : State := { steering with source := .cycle [.emit] }
     s.inputs = [] ∧ s.source = .cycle [.emit]) ∧
    (let s : State := { steering with source := .free }
     s.inputs = [] ∧ s.source = .free) ∧
    (let s : State := { fresh with inputs := [.emit] }
     s.phase = .idle ∧ s.inputs = .emit :: [] ∧ ∀ bytes, Input.emit ≠ .command bytes) :=
  ⟨rfl, ⟨rfl, rfl, rfl⟩, ⟨rfl, rfl⟩, ⟨rfl, rfl⟩, rfl, rfl, by simp⟩
theorem witness_EnvironmentMovesFollowTheirRules :
    Direction.toDevice ≠ fresh.dir ∧ fresh.rx.length < fresh.build.rxFifoDepth ∧ fresh.tx = [] ∧
    (let s : State := { fresh with rx := List.replicate 64 0, tx := [0x41] }
     s.build.rxFifoDepth ≤ s.rx.length ∧ s.tx = 0x41 :: []) := by decide
theorem witness_ResetAbortsTheCommand : ∃ t, t = steering.move .reset := ⟨_, rfl⟩
theorem witness_EveryMoveKeepsTheInvariant : fresh.Inv ∧ steering.Inv ∧ clearing.Inv :=
  ⟨fresh_inv, steering_inv, clearing_inv⟩
theorem witness_EveryStepKeepsTheInvariant : fresh.Inv ∧ step fresh = .next fresh := ⟨fresh_inv, rfl⟩
theorem witness_QuietCommandsEndOrWait :
    QuietInputs fresh.source fresh.inputs ∧ ∃ t, exec .busDir fresh = .next t := by
  refine ⟨rfl, ?_⟩
  rcases exec_cases .busDir fresh with ⟨_, h⟩ | ⟨⟨_, h⟩, _⟩ | ⟨⟨_, _, h, _⟩, _⟩
  · exact ⟨_, h⟩
  · cases h
  · cases h
theorem witness_EveryIssuedCommandHasANextState : fresh.phase = .idle := rfl
theorem witness_StepKeepsTheBuildAndTheOutputs : step fresh = .next fresh := rfl

end Sys2Proof.Tests
end

section
/-! A quiet run comes to rest: the fuel measure decreases along it (00_scope.md R11), so its first rest exists, and `exec`
in a quiet environment answers that rest. -/

namespace Sys2Proof.Machine

/-- The two ways to be quiet, in the form the lemmas about quiet runs take. -/
theorem quietInputs_cases (source : Source) (l : List Input) (h : QuietInputs source l) :
    (l = [] ∧ source = .ends) ∨ ∃ b r, l = .command b :: r := by
  match l, h with
  | [], h => exact .inl ⟨rfl, h⟩
  | .command b :: r, _ => exact .inr ⟨b, r, rfl⟩

/-- The sequencer, alone, always comes to a rest: every micro-step before it uses fuel. -/
theorem exists_quietTo (s : State) : ∃ t, QuietTo s t := by
  induction hn : s.fuel using Nat.strong_induction_on generalizing s with
  | h n ih =>
    cases hr : (seqStep s).resting with
    | true => exact ⟨_, .rest s hr⟩
    | false =>
      obtain ⟨t, ht⟩ := ih _ (hn ▸ seqStep_fuel s hr) (seqStep s) rfl
      exact ⟨t, .go s t hr ht⟩

theorem QuietTo.resting {s t : State} (h : QuietTo s t) : t.resting = true := by
  induction h with
  | rest _ h => exact h
  | go _ _ _ _ ih => exact ih

theorem QuietTo.running {s t : State} (i : Instr) (h : QuietTo s t) (hs : s.running i) : t.running i := by
  induction h with
  | rest s _ => exact seqStep_running i s hs
  | go s _ _ _ ih => exact ih (seqStep_running i s hs)

/-- What a quiet run of `i` comes to is its end, or one of its Waits. -/
theorem QuietTo.idle_or_wait {s t : State} (i : Instr) (h : QuietTo s t) (hs : s.running i) :
    t.phase = .idle ∨ ∃ back, t.phase = .busy i (.wait back) := by
  rcases t.resting_cases with ⟨_, hidle | ⟨j, back, hwait⟩⟩ | ⟨hbusy, _⟩
  · exact .inl hidle
  · rcases h.running i hs with hidle | ⟨μ, hμ⟩
    · exact .inl hidle
    · obtain ⟨rfl, rfl⟩ : j = i ∧ .wait back = μ := by simpa [hwait] using hμ
      exact .inr ⟨back, hwait⟩
  · simp [h.resting] at hbusy

/-- Where `exec` answers a state in a quiet environment, that state is the first rest of a quiet run of the command. -/
theorem exec_quiet (i : Instr) (s t : State) (hq : QuietInputs s.source s.inputs) (h : exec i s = .next t) :
    ∃ u : State, u.running i ∧ QuietTo u t := by
  have hq := quietInputs_cases _ _ hq
  rcases exec_cases i s with ⟨hidle, _⟩ | ⟨⟨μ, hbusy⟩, _⟩ | ⟨_, hrefused⟩
  · obtain ⟨t', ht'⟩ := exists_quietTo { s with phase := .busy i .start }
    cases h.symm.trans (exec_of_quietTo i s t' hidle hq ht')
    exact ⟨_, .inr ⟨_, rfl⟩, ht'⟩
  · obtain ⟨t', ht'⟩ := exists_quietTo s
    cases h.symm.trans (exec_busy_of_quietTo i μ s t' hbusy hq ht')
    exact ⟨s, .inr ⟨μ, hbusy⟩, ht'⟩
  · cases h.symm.trans hrefused

/-- Settles O58: the answer is the first rest of a quiet run, which the fuel measure guarantees to exist. -/
theorem quietCommandsEndOrWait : Obligations.QuietCommandsEndOrWait := by
  intro i s t hq h
  obtain ⟨u, hu, hut⟩ := exec_quiet i s t hq h
  exact hut.idle_or_wait i hu

end Sys2Proof.Machine
end

section
/-! What one micro-step can write, whichever command runs it: an inversion of `microOf`, from which every frame fact about
a move follows without opening the micro-step functions again (00_scope.md R5, R11). -/

namespace Sys2Proof.Machine

/-- `MicroEffect i μ s t`: a micro-step of the command `i` at `μ` may take `s` to `t`. One constructor for each register
or storage array that is written, with the positions that write it; where the sequencer goes on is not said. -/
inductive MicroEffect : Instr → Micro → State → State → Prop where
  | finish {i μ s} (st : Status) (data : List Byte) : MicroEffect i μ s (s.finish st data)
  | jump {i μ s} (ν : Micro) : MicroEffect i μ s (s.goto ν)
  | steer {i s} (d : Direction) (next : Micro) : MicroEffect i (.steer d next) s ((s.steer d).goto next)
  | push {i s} (b : Byte) (rest : List Byte) (next : Micro) (room : s.tx.length < s.build.txFifoDepth) :
      MicroEffect i (.push (b :: rest) next) s ((s.txAppend b).goto (.push rest next))
  | takeRx {i μ s} (rest : List Byte) (ν : Micro) (shorter : rest.length ≤ s.rx.length) :
      MicroEffect i μ s (State.goto { s with rx := rest } ν)
  | storePayload {i s} (bytes : List Byte) (ν : Micro) :
      MicroEffect i (.payloadStore bytes) s (State.goto { s with respBuf := memWrite s.respBuf 1 bytes } ν)
  | clearPending {i s} (st : Status) (data : List Byte) (ν : Micro) :
      MicroEffect i (.clear st data) s (s.clearPending.goto ν)
  | storeId {i s} (c : Byte) (ν : Micro) :
      MicroEffect i (.scanStore c) s (State.goto { s with respBuf := memWrite s.respBuf 0 [c] } ν)
  | latch {i s} (ν : Micro) : MicroEffect i .scanLatch s (State.goto { s with matched := true } ν)
  | log {i s} (kind : LogKind) (c : Byte) (ν : Micro) :
      MicroEffect i (.oobLog kind c) s ((s.logEvent kind c).goto ν)
  | ringPush {i s} (f : List Byte) (ν : Micro) :
      MicroEffect i (.oobPush f) s (State.goto { s with ring := s.ring.push s.build.ringCapacity f } ν)
  | ringPop {s} (ν : Micro) :
      MicroEffect .popNotif .popRing s (State.goto { s with ring := s.ring.dropOldest s.build.ringCapacity } ν)
  | connect {s} (bytes : List Byte) (ν : Micro) :
      MicroEffect (.sessionInit bytes) .connect s (State.goto { s with connected := true } ν)
  | setPending {s} (flags : Byte) (bytes : List Byte) (ν : Micro) :
      MicroEffect (.sendReq flags bytes) .setPending s (State.goto { s with pendingId := requestId flags bytes } ν)
  | clearLen {s} (flags : Byte) (bytes : List Byte) (ν : Micro) :
      MicroEffect (.sendReq flags bytes) .clearLen s (State.goto { s with expectedLen := 0 } ν)
  | clearMatched {s} (flags : Byte) (bytes : List Byte) (ν : Micro) :
      MicroEffect (.sendReq flags bytes) .clearMatched s (State.goto { s with matched := false } ν)
  | stampTime {s} (flags : Byte) (bytes : List Byte) (ν : Micro) :
      MicroEffect (.sendReq flags bytes) .stampTime s (State.goto { s with lastSend := s.now } ν)
  | stampValid {s} (flags : Byte) (bytes : List Byte) (ν : Micro) :
      MicroEffect (.sendReq flags bytes) .stampValid s (State.goto { s with lastSendValid := true } ν)
  | startTimer {s} (cap : BitVec 16) (ν : Micro) :
      MicroEffect (.getResp cap) .start s (State.goto { s with getT0 := s.now } ν)
  | recordLen {s} (cap : BitVec 16) (ν : Micro) :
      MicroEffect (.getResp cap) .respLen s (State.goto { s with expectedLen := capByte cap } ν)
  | writeTimeout {s} (idx : CfgIndex) (v : CfgWord) (ν : Micro) :
      MicroEffect (.cfgWrite idx v) .start s (State.goto { s with respTimeoutMs := v } ν)
  | writeDelay {s} (idx : CfgIndex) (v : CfgWord) (ν : Micro) :
      MicroEffect (.cfgWrite idx v) .start s (State.goto { s with reqDelayMs := v } ν)
  | writeRelease {s} (idx : CfgIndex) (v : CfgWord) (ν : Micro) :
      MicroEffect (.cfgWrite idx v) .start s (State.goto { s with release := v.getLsbD 0 } ν)

/-- To follow a micro-step function into the function it calls. -/
theorem MicroEffect.of_eq {i : Instr} {μ : Micro} {s t u : State} (h : u = t) (he : MicroEffect i μ s t) :
    MicroEffect i μ s u := h ▸ he

/-! ## The shared micro-steps -/

theorem baseStep_effect (i : Instr) (μ : Micro) (s : State) : MicroEffect i μ s (baseStep μ s) := by
  cases μ with
  | flush d next =>
    rcases flushStep_cases d next s with ⟨_, h⟩ | ⟨_, h⟩ <;> exact .of_eq h (.jump _)
  | steer d next => exact .steer d next
  | push bytes next =>
    rcases pushStep_cases bytes next s with ⟨_, h⟩ | ⟨_, _, _, _, h⟩ | ⟨b, rest, rfl, room, h⟩
    · exact .of_eq h (.jump _)
    · exact .of_eq h (.jump _)
    · exact .of_eq h (.push b rest next room)
  | finish st data => exact .finish st data
  | _ => exact .jump _

theorem payloadStep_effect (i : Instr) (μ : Micro) (s : State) : MicroEffect i μ s (payloadStep μ s) := by
  cases μ with
  | readStart n k => exact .jump _
  | readInit n t k => exact .jump _
  | reading n t got k =>
    rcases readStep_cases n t got k s with ⟨_, h⟩ | ⟨b, rest, _, hrx, h⟩ | ⟨_, _, _, h⟩ | ⟨_, _, _, h⟩
    · exact .of_eq h (.jump _)
    · exact .of_eq h (.takeRx rest _ (by simp [hrx]))
    · exact .of_eq h (.jump _)
    · exact .of_eq h (.jump _)
  | readDone got k =>
    rcases readDoneStep_cases got k s with
      ⟨_, _, _, h⟩ | ⟨_, _, _, h⟩ | ⟨_, _, _, _, h⟩ | ⟨_, _, _, _, h⟩ <;> exact .of_eq h (.jump _)
  | payloadLen => exact .jump _
  | payloadStore bytes => exact .storePayload bytes _
  | payloadDiscard => exact .takeRx [] _ (Nat.zero_le _)
  | release st data => dsimp only [payloadStep]; split <;> exact .jump _
  | clear st data => exact .clearPending st data _
  | _ => exact baseStep_effect i _ s

theorem receiveStep_effect (i : Instr) (μ : Micro) (s : State) : MicroEffect i μ s (receiveStep μ s) := by
  cases μ with
  | scanPop =>
    rcases scanPopStep_cases s with ⟨h, l, rest, hrx, he⟩ | ⟨_, he⟩
    · exact .of_eq he (.takeRx rest _ (by simp only [hrx, List.length_cons]; omega))
    · exact .of_eq he (.jump _)
  | scanDecode p => exact .jump _
  | scanMatch c => dsimp only [receiveStep]; split <;> exact .jump _
  | scanStore c => exact .storeId c _
  | scanProbe => dsimp only [receiveStep]; split <;> exact .jump _
  | scanLatch => exact .latch _
  | oobLookup c => exact .jump _
  | oobKnown c e =>
    rcases oobKnownStep_cases c e s with ⟨_, h⟩ | ⟨_, _, h⟩ <;> exact .of_eq h (.jump _)
  | oobDiscard kind c => exact .takeRx [] _ (Nat.zero_le _)
  | oobLog kind c => exact .log kind c _
  | oobPush f => exact .ringPush f _
  | _ => exact payloadStep_effect i _ s

/-! ## The commands -/

theorem microSendReq_effect (flags : Byte) (bytes : List Byte) (μ : Micro) (s : State) :
    MicroEffect (.sendReq flags bytes) μ s (microSendReq flags bytes μ s) := by
  cases μ with
  | start =>
    dsimp only [microSendReq]
    split
    · exact .jump _
    · exact .finish _ _
  | sendBusy =>
    dsimp only [microSendReq]
    split
    · exact .finish _ _
    · exact .jump _
  | sendParam =>
    dsimp only [microSendReq]
    split
    · exact .finish _ _
    · exact .jump _
  | spacing => dsimp only [microSendReq]; split <;> exact .jump _
  | setPending => exact .setPending flags bytes _
  | clearLen => exact .clearLen flags bytes _
  | clearMatched => exact .clearMatched flags bytes _
  | stampTime => exact .stampTime flags bytes _
  | stampValid => exact .stampValid flags bytes _
  | _ => exact baseStep_effect _ _ s

theorem microGetResp_effect (cap : BitVec 16) (μ : Micro) (s : State) :
    MicroEffect (.getResp cap) μ s (microGetResp cap μ s) := by
  cases μ with
  | start => exact .startTimer cap _
  | respPending => dsimp only [microGetResp]; split <;> exact .jump _
  | respCap => dsimp only [microGetResp]; split <;> exact .jump _
  | respLen => exact .recordLen cap _
  | respLoop =>
    dsimp only [microGetResp]
    split
    · exact .jump _
    · split <;> exact .jump _
  | scanned r => dsimp only [microGetResp]; split <;> exact .jump _
  | respCollect => exact .jump _
  | respShort r => dsimp only [microGetResp]; split <;> exact .jump _
  | respDeadline r => dsimp only [microGetResp]; split <;> exact .jump _
  | respYield r => dsimp only [microGetResp]; split <;> exact .jump _
  | _ => exact receiveStep_effect _ _ s

theorem microPopNotif_effect (μ : Micro) (s : State) : MicroEffect .popNotif μ s (microPopNotif μ s) := by
  cases μ with
  | start => dsimp only [microPopNotif]; split <;> exact .jump _
  | popMatched => dsimp only [microPopNotif]; split <;> exact .jump _
  | popLoop => dsimp only [microPopNotif]; split <;> exact .jump _
  | scanned r => dsimp only [microPopNotif]; split <;> exact .jump _
  | popRing => exact .ringPop _
  | popped f => rcases poppedStep_cases f s with ⟨_, h⟩ | ⟨_, _, h⟩ <;> exact .of_eq h (.jump _)
  | _ => exact receiveStep_effect _ _ s

theorem microCfgRead_effect (idx : CfgIndex) (μ : Micro) (s : State) :
    MicroEffect (.cfgRead idx) μ s (microCfgRead idx μ s) := by
  cases μ with
  | start =>
    rcases cfgReadStep_cases idx s with ⟨_, h⟩ | ⟨_, _, h⟩
    · exact .of_eq h (.finish _ _)
    · exact .of_eq h (.jump _)
  | cfgLoad => rcases cfgLoadStep_cases idx s with ⟨_, h⟩ | ⟨_, _, h⟩ <;> exact .of_eq h (.jump _)
  | _ => exact baseStep_effect _ _ s

theorem microCfgWrite_effect (idx : CfgIndex) (v : CfgWord) (μ : Micro) (s : State) :
    MicroEffect (.cfgWrite idx v) μ s (microCfgWrite idx v μ s) := by
  cases μ with
  | start =>
    rcases cfgWriteStep_cases idx v s with h | ⟨_, h⟩ | ⟨_, h⟩ | ⟨_, h⟩
    · exact .of_eq h (.finish _ _)
    · exact .of_eq h (.writeTimeout idx v _)
    · exact .of_eq h (.writeDelay idx v _)
    · exact .of_eq h (.writeRelease idx v _)
  | _ => exact baseStep_effect _ _ s

/-- Every micro-step of every command is one of the writes that `MicroEffect` lists. -/
theorem microOf_effect (i : Instr) (μ : Micro) (s : State) : MicroEffect i μ s (microOf i μ s) := by
  cases i with
  | decNibble ch => cases μ with
    | start => exact .finish _ _
    | _ => exact baseStep_effect _ _ s
  | decByte hi lo => cases μ with
    | start => exact .finish _ _
    | _ => exact baseStep_effect _ _ s
  | encByte b => cases μ with
    | start => exact .finish _ _
    | _ => exact baseStep_effect _ _ s
  | busDev => cases μ with
    | start => exact .jump _
    | _ => exact baseStep_effect _ _ s
  | busCon => cases μ with
    | start => exact .jump _
    | _ => exact baseStep_effect _ _ s
  | busDir => cases μ with
    | start => exact .finish _ _
    | _ => exact baseStep_effect _ _ s
  | conWrite bytes => cases μ with
    | start => exact .jump _
    | _ => exact baseStep_effect _ _ s
  | sessionInit bytes => cases μ with
    | start => exact .jump _
    | connect => exact .connect bytes _
    | _ => exact baseStep_effect _ _ s
  | sendReq flags bytes => exact microSendReq_effect flags bytes μ s
  | getResp cap => exact microGetResp_effect cap μ s
  | popNotif => exact microPopNotif_effect μ s
  | ringAvail => cases μ with
    | start => exact .finish _ _
    | _ => exact baseStep_effect _ _ s
  | cfgRead idx => exact microCfgRead_effect idx μ s
  | cfgWrite idx v => exact microCfgWrite_effect idx v μ s

/-- What the sequencer's move can do: nothing in IDLE, or a micro-step of the command in progress. -/
theorem seqStep_cases (s : State) :
    (s.phase = .idle ∧ seqStep s = s) ∨ ∃ i μ, s.phase = .busy i μ ∧ MicroEffect i μ s (seqStep s) := by
  cases h : s.phase with
  | idle => exact .inl ⟨rfl, seqStep_idle s h⟩
  | busy i μ => exact .inr ⟨i, μ, rfl, seqStep_busy s i μ h ▸ microOf_effect i μ s⟩

/-! ## What a micro-step leaves unchanged -/

namespace MicroEffect

variable {i : Instr} {μ : Micro} {s t : State}

theorem build_eq (h : MicroEffect i μ s t) : t.build = s.build := by
  cases h with
  | steer d next => exact State.steer_build s d
  | _ => rfl

/-- What was output stays output (10_state.md R40). -/
theorem history_extends (h : MicroEffect i μ s t) : ∃ more, t.history = s.history ++ more := by
  cases h with
  | finish st data => exact ⟨_, rfl⟩
  | steer d next => exact ⟨_, State.steer_history s d⟩
  | log kind c ν => exact ⟨_, rfl⟩
  | _ => exact ⟨[], (List.append_nil _).symm⟩

/-- CONNECTED is written by SESSION_INIT's `CONNECTED <- 1` only (10_state.md R22). -/
theorem connected_cases (h : MicroEffect i μ s t) :
    t.connected = s.connected ∨ (t.connected = true ∧ ∃ bytes, i = .sessionInit bytes ∧ μ = .connect) := by
  cases h with
  | connect bytes ν => exact .inr ⟨rfl, bytes, rfl, rfl⟩
  | steer d next => exact .inl (State.steer_connected s d)
  | _ => exact .inl rfl

/-- The ring is written by RING_PUSH and by POP_NOTIF's RING_POP only (41_ring.md R143). -/
theorem ring_cases (h : MicroEffect i μ s t) :
    t.ring = s.ring ∨ (∃ f, μ = .oobPush f ∧ t.ring = s.ring.push s.build.ringCapacity f) ∨
      (i = .popNotif ∧ μ = .popRing ∧ t.ring = s.ring.dropOldest s.build.ringCapacity) := by
  cases h with
  | ringPush f ν => exact .inr (.inl ⟨f, rfl, rfl⟩)
  | ringPop ν => exact .inr (.inr ⟨rfl, rfl, rfl⟩)
  | steer d next => exact .inl (State.steer_ring s d)
  | _ => exact .inl rfl

end MicroEffect

end Sys2Proof.Machine
end

section
/-! What a step does next (10_state.md R36): the cases of `step`, for the statements that tie it to `exec` and to the
moves. -/

namespace Sys2Proof.Machine

/-- A busy sequencer goes on with its command. -/
theorem step_busy (s : State) (i : Instr) (μ : Micro) (h : s.phase = .busy i μ) : step s = exec i s := by
  simp [step, fetch, h]

theorem step_idle_nil (s : State) (hp : s.phase = .idle) (hi : s.inputs = []) : step s = .next s.refill := by
  simp [step, fetch, hp, hi]

/-- The command in progress, with the entered moves used up and an environment that makes more, stands where it is while
the next round is entered (log entry 21). -/
theorem exec_busy_nil (s : State) (i : Instr) (μ : Micro) (hp : s.phase = .busy i μ) (hi : s.inputs = [])
    (hs : s.source ≠ .ends) : exec i s = .next s.refill := by
  rcases exec_cases i s with ⟨hidle, _⟩ | ⟨_, he⟩ | ⟨⟨j, ν, hj, hne⟩, _⟩
  · simp [hp] at hidle
  · rw [he, hi]
    cases h : s.source with
    | ends => exact absurd h hs
    | cycle moves => simp [runInputs, h]
    | free => simp [runInputs, h]
  · cases hp.symm.trans hj
    exact absurd rfl hne

/-- Whatever PHASE is, a step at the end of the entered moves enters the next round (log entry 21). -/
theorem step_nil (s : State) (hi : s.inputs = []) (hs : s.source ≠ .ends) : step s = .next s.refill := by
  cases hp : s.phase with
  | idle => exact step_idle_nil s hp hi
  | busy i μ => rw [step_busy s i μ hp, exec_busy_nil s i μ hp hi hs]

/-- Settles O50: the record decodes, so `fetch` runs the command. -/
theorem stepRunsTheDecodedCommand : Obligations.StepRunsTheDecodedCommand := by
  intro s bytes rest i hp hi hd
  simp [step, fetch, fetchRecord, hp, hi, hd]

/-- Settles O51, one case of `step` after the other. -/
theorem stepOtherwiseGoesOn : Obligations.StepOtherwiseGoesOn := by
  refine ⟨step_busy, ?waits, ?cycles, ?schedule, ?moves⟩
  case waits =>
    intro s hp hi hs
    rw [step_idle_nil s hp hi, State.refill, hs]
  case cycles =>
    intro s moves hi hs
    rw [step_nil s hi (by simp [hs]), State.refill, hs]
  case schedule =>
    intro s hi hs
    rw [step_nil s hi (by simp [hs]), State.refill, hs]
  case moves =>
    intro s e rest hp hi hne
    rw [← envMove_eq_move { s with inputs := rest } e hp]
    cases e with
    | command bytes => exact absurd rfl (hne bytes)
    | _ => simp [step, fetch, hp, hi]

end Sys2Proof.Machine
end

section
/-! What a move leaves unchanged: CONNECTED (10_state.md R22), the ring (R32), the build parameters (R39) and the outputs
so far (R40). -/

namespace Sys2Proof.Machine

theorem State.move_build (s : State) (e : Input) : (s.move e).build = s.build := by
  cases e with
  | seq =>
    rcases seqStep_cases s with ⟨_, h⟩ | ⟨i, μ, _, h⟩
    · exact congrArg State.build h
    · exact h.build_eq
  | _ => simp [State.move]

theorem State.move_history (s : State) (e : Input) : ∃ more, (s.move e).history = s.history ++ more := by
  cases e with
  | seq =>
    rcases seqStep_cases s with ⟨_, h⟩ | ⟨i, μ, _, h⟩
    · exact ⟨[], by simp [State.move, h]⟩
    · exact h.history_extends
  | emit => exact ⟨_, State.emit_history s⟩
  | reset => exact ⟨_, State.assertReset_history s⟩
  | _ => exact ⟨[], by simp [State.move]⟩

/-- Settles O21: the one write of CONNECTED is SESSION_INIT's, and the environment's one is reset. -/
theorem onlySessionInitConnects : Obligations.OnlySessionInitConnects := by
  intro s e hne
  cases e with
  | seq =>
    rcases seqStep_cases s with ⟨_, h⟩ | ⟨i, μ, hp, h⟩
    · exact absurd (congrArg State.connected h) hne
    · rcases h.connected_cases with hsame | ⟨htrue, bytes, rfl, rfl⟩
      · exact absurd hsame hne
      · exact .inl ⟨rfl, htrue, bytes, hp⟩
  | reset => exact .inr ⟨rfl, rfl⟩
  | _ => simp [State.move] at hne

/-- What a move does to the ring: reset, a push, a pop, or nothing (41_ring.md R143). -/
theorem State.move_ring_cases (s : State) (e : Input) :
    (s.move e).ring = s.ring ∨ e = .reset ∨
    (e = .seq ∧ ∃ i f, s.phase = .busy i (.oobPush f) ∧ (s.move e).ring = s.ring.push s.build.ringCapacity f) ∨
    (e = .seq ∧ s.phase = .busy .popNotif .popRing ∧ (s.move e).ring = s.ring.dropOldest s.build.ringCapacity) := by
  cases e with
  | seq =>
    rcases seqStep_cases s with ⟨_, h⟩ | ⟨i, μ, hp, h⟩
    · exact .inl (congrArg State.ring h)
    · rcases h.ring_cases with hsame | ⟨f, rfl, hpush⟩ | ⟨rfl, rfl, hpop⟩
      · exact .inl hsame
      · exact .inr (.inr (.inl ⟨rfl, i, f, hp, hpush⟩))
      · exact .inr (.inr (.inr ⟨rfl, hp, hpop⟩))
  | reset => exact .inr (.inl rfl)
  | _ => exact .inl (by simp [State.move])

/-- Settles O46. -/
theorem onlyPushAndPopChangeTheRing : Obligations.OnlyPushAndPopChangeTheRing := fun s e hne =>
  (s.move_ring_cases e).resolve_left hne

/-- `t` comes after `s` in a run: the build is the same, and what was output stays output. -/
def State.Extends (s t : State) : Prop := t.build = s.build ∧ ∃ more, t.history = s.history ++ more

theorem State.Extends.move {s t : State} (h : s.Extends t) (e : Input) : s.Extends (t.move e) := by
  obtain ⟨hb, more, hm⟩ := h
  obtain ⟨later, hl⟩ := t.move_history e
  exact ⟨(t.move_build e).trans hb, more ++ later, by rw [hl, hm, List.append_assoc]⟩

theorem exec_extends (i : Instr) (s t : State) (h : exec i s = .next t) : s.Extends t :=
  exec_keeps s.Extends (fun _ e ht => ht.move e) (fun _ _ _ ht => ht) (fun _ _ _ ht => ht) i s t h
    ⟨rfl, [], (List.append_nil _).symm⟩

/-- Settles O60, case by case of `step`. -/
theorem stepKeepsTheBuildAndTheOutputs : Obligations.StepKeepsTheBuildAndTheOutputs := by
  intro s t h
  rcases step_cases s with ⟨i, _, _, he⟩ | ⟨_, _, he⟩ | ⟨_, rest, i, _, _, _, he⟩ | ⟨_, rest, _, _, _, _, he⟩ |
    ⟨_, _, _, _, he⟩ | ⟨e, rest, hp, _, he⟩ <;> rw [he] at h
  · exact exec_extends i s t h
  · cases h
    exact ⟨s.refill_build, [], by simp⟩
  · exact exec_extends i { s with inputs := rest } t h
  · cases h
    exact ⟨rfl, _, rfl⟩
  · cases h
  · cases h
    rw [envMove_eq_move { s with inputs := rest } e hp]
    exact State.Extends.move (s := s) (t := { s with inputs := rest }) ⟨rfl, [], by simp⟩ e

end Sys2Proof.Machine
end

section
/-! The invariant on PHASE and on everything else, apart: what it asks of the registers and the storage alone, and what it
asks of the position of a running command (10_state.md R25, R32, R33, 43_transport.md R189). -/

namespace Sys2Proof.Machine

/-! ## The two halves of the invariant -/

/-- The part of `State.Inv` that does not speak of PHASE. -/
structure State.RegistersSound (s : State) : Prop where
  build : s.build.wf = true
  memory : Memory.wf s
  indexed : s.ring.indexed s.build.ringCapacity
  framed : s.ring.framed s.build.ringCapacity s.build.maxOobPayload
  matched : s.matchedPending

/-- What a position, once the primitives around it have returned, asks of the registers: the first five clauses of
`State.positionSound` (`State.demands_iff`). -/
def State.demands (s : State) : Micro → Prop
  | .scanStore c => s.pendingId ≠ 0 ∧ c = s.pendingId
  | .scanProbe | .scanLatch => s.pendingId ≠ 0 ∧ s.respBuf.head? = some s.pendingId
  | .sendParam | .spacing | .setPending => s.pendingId = 0
  | .scanPop => 2 ≤ s.rx.length
  | μ => μ.notificationFits s.build.maxOobPayload

theorem State.demands_iff (s : State) (μ : Micro) :
    s.demands μ ↔
      (∀ c, μ = .scanStore c → s.pendingId ≠ 0 ∧ c = s.pendingId) ∧
      (μ = .scanProbe ∨ μ = .scanLatch → s.pendingId ≠ 0 ∧ s.respBuf.head? = some s.pendingId) ∧
      (μ = .sendParam ∨ μ = .spacing ∨ μ = .setPending → s.pendingId = 0) ∧
      (μ = .scanPop → 2 ≤ s.rx.length) ∧
      μ.notificationFits s.build.maxOobPayload := by
  cases μ <;> simp [State.demands, Micro.notificationFits]

/-- What the invariant asks of a state whose command `i` stands at `μ`, besides the registers' own soundness. -/
structure State.SoundAt (s : State) (i : Instr) (μ : Micro) : Prop where
  length : s.expectedLen ≠ 0 → (∃ cap, i = .getResp cap) ∧ μ.inResponseLoop = true
  leaf : s.demands μ.leaf
  steer : μ.steerFree = true ∨ ∃ d next, μ = .steer d next ∧ next.steerFree = true ∧ s.tx = []

/-- What the invariant asks of PHASE: in IDLE no response length, else a sound position. -/
def State.Positioned (s : State) : Prop :=
  match s.phase with
  | .idle => s.expectedLen = 0
  | .busy i μ => s.SoundAt i μ

theorem State.positioned_idle {s : State} (h : s.phase = .idle) : s.Positioned ↔ s.expectedLen = 0 := by
  simp [State.Positioned, h]

theorem State.positioned_busy {s : State} {i : Instr} {μ : Micro} (h : s.phase = .busy i μ) :
    s.Positioned ↔ s.SoundAt i μ := by
  simp [State.Positioned, h]

theorem State.positioned_iff (s : State) : s.Positioned ↔ s.lengthOnlyInLoop ∧ s.positionSound := by
  cases hp : s.phase with
  | idle => simp [State.positioned_idle hp, State.lengthOnlyInLoop, State.positionSound, hp]
  | busy i μ =>
    rw [State.positioned_busy hp]
    constructor
    · rintro ⟨hlen, hleaf, hsteer⟩
      refine ⟨fun hne => ?_, fun cmd ν hν => ?_⟩
      · obtain ⟨⟨cap, rfl⟩, hloop⟩ := hlen hne
        exact ⟨cap, μ, hp, hloop⟩
      · cases hp.symm.trans hν
        obtain ⟨hstore, hprobe, hsend, hpop, hfits⟩ := (s.demands_iff μ.leaf).mp hleaf
        exact ⟨hstore, hprobe, hsend, hpop, hfits, hsteer⟩
    · rintro ⟨hlen, hpos⟩
      obtain ⟨hstore, hprobe, hsend, hpop, hfits, hsteer⟩ := hpos i μ hp
      refine ⟨fun hne => ?_, (s.demands_iff μ.leaf).mpr ⟨hstore, hprobe, hsend, hpop, hfits⟩, hsteer⟩
      obtain ⟨cap, ν, hν, hloop⟩ := hlen hne
      cases hp.symm.trans hν
      exact ⟨⟨cap, rfl⟩, hloop⟩

/-- The invariant, cut in two. -/
theorem State.inv_iff (s : State) : s.Inv ↔ s.RegistersSound ∧ s.Positioned := by
  rw [State.positioned_iff]
  exact ⟨fun ⟨hb, hm, hi, hf, hmt, hl, hp⟩ => ⟨⟨hb, hm, hi, hf, hmt⟩, hl, hp⟩,
    fun ⟨⟨hb, hm, hi, hf, hmt⟩, hl, hp⟩ => ⟨hb, hm, hi, hf, hmt, hl, hp⟩⟩

/-! ## The build -/

/-- The constraint column of 00_scope.md R7, as a proposition. -/
theorem Build.wf_iff (b : Build) : b.wf = true ↔
    (1 ≤ b.ringCapacity ∧ b.ringCapacity ≤ 255) ∧ (1 ≤ b.maxResponseLen ∧ b.maxResponseLen ≤ 255) ∧
    (1 ≤ b.maxRequestLen ∧ b.maxRequestLen ≤ 255) ∧ b.maxOobPayload ≤ 254 ∧
    (∀ e ∈ b.oobTable, e.2 ≤ b.maxOobPayload) ∧ 2 ≤ b.rxFifoDepth ∧ 1 ≤ b.txFifoDepth := by
  simp [Build.wf, and_assoc]

theorem Build.capacity_pos {b : Build} (h : b.wf = true) : 0 < b.ringCapacity :=
  ((Build.wf_iff b).mp h).1.1

theorem Build.responseLen_pos {b : Build} (h : b.wf = true) : 0 < b.maxResponseLen :=
  ((Build.wf_iff b).mp h).2.1.1

/-- A known id's count is within MAX_OOB_PAYLOAD (00_scope.md R7). -/
theorem Build.oobLen_le {b : Build} (h : b.wf = true) {c : Byte} {e : Nat} (he : b.oobLen c = some e) :
    e ≤ b.maxOobPayload := by
  obtain ⟨-, -, -, -, htable, -⟩ := (Build.wf_iff b).mp h
  obtain ⟨front, back, hb, -⟩ := List.lookup_eq_some_iff.mp he
  exact htable (c, e) (by simp [hb])

/-- The constants' types hold them to the constraint column. -/
theorem Config.build_wf : Config.build.wf = true := by
  have hcapacity := Config.ringCapacityLessOne.isLt
  have hresponse := Config.maxResponseLenLessOne.isLt
  have hrequest := Config.maxRequestLenLessOne.isLt
  have hpayload := Config.maxOobPayload.isLt
  refine (Build.wf_iff _).mpr ⟨?_, ?_, ?_, Nat.le_of_lt_succ hpayload, fun e he => ?_, ?_, ?_⟩
  case refine_4 =>
    obtain ⟨entry, -, rfl⟩ := List.mem_map.mp he
    exact Nat.le_of_lt_succ entry.2.isLt
  all_goals simp only [Config.build]; omega

/-! ## The ring's indices and frames -/

/-- RING_PUSH keeps RD, WR and COUNT together (10_state.md R33). -/
theorem Ring.indexed_push {c : Nat} {r : Ring} (f : List Byte) (h : r.indexed c) : (r.push c f).indexed c := by
  obtain ⟨hrd, hcount, hwr⟩ := h
  have hc : 0 < c := by omega
  rcases r.push_rd_count c f with ⟨hfull, hrd', hcount'⟩ | ⟨hroom, hrd', hcount'⟩
  · refine ⟨hrd' ▸ Nat.mod_lt _ hc, by omega, ?_⟩
    rw [push_wr, hwr, hrd', hcount', hfull, Nat.mod_add_mod, Nat.mod_add_mod]
    congr 1; omega
  · refine ⟨hrd' ▸ hrd, by omega, ?_⟩
    rw [push_wr, hwr, hrd', hcount', Nat.mod_add_mod, Nat.add_assoc]

/-- RING_POP keeps RD, WR and COUNT together (10_state.md R33). -/
theorem Ring.indexed_dropOldest {c : Nat} {r : Ring} (h : r.indexed c) : (r.dropOldest c).indexed c := by
  rcases r.dropOldest_rd_count c with ⟨_, he⟩ | ⟨hne, hrd', hcount'⟩
  · rwa [he]
  · obtain ⟨hrd, hcount, hwr⟩ := h
    refine ⟨hrd' ▸ Nat.mod_lt _ (by omega), by omega, ?_⟩
    rw [dropOldest_wr, hwr, hrd', hcount', Nat.mod_add_mod]
    congr 1; omega

/-- After a push SLOT[WR] holds the frame, and every other slot is as it was (41_ring.md R140). -/
theorem Ring.slot_push (c : Nat) (r : Ring) (f : List Byte) (j : Nat) (hj : j < r.slots.length) :
    (r.push c f).slot j = if r.wr = j then (r.slot j).store f else r.slot j := by
  simp only [Ring.slot, push_slots, List.getD_eq_getElem?_getD, List.getElem?_modify, List.getElem?_eq_getElem hj]
  split <;> rfl

/-- The frames after a push stand where the ones before it stood, the new one at SLOT[WR] among them. -/
theorem Ring.push_position (c : Nat) (r : Ring) (f : List Byte) (k : Nat) (hc : 0 < c)
    (hk : k < (r.push c f).count) :
    ∃ m ≤ r.count, ((r.push c f).rd + k) % c = (r.rd + m) % c := by
  rcases r.push_rd_count c f with ⟨hfull, hrd', hcount'⟩ | ⟨hroom, hrd', hcount'⟩
  · exact ⟨k + 1, by omega, by rw [hrd', Nat.mod_add_mod]; congr 1; omega⟩
  · exact ⟨k, by omega, by rw [hrd']⟩

theorem Ring.framed_push {c maxPayload : Nat} {r : Ring} {f : List Byte} (h : r.framed c maxPayload)
    (hi : r.indexed c) (hsize : r.slots.length = c) (hf : 1 ≤ f.length ∧ f.length ≤ maxPayload + 1) :
    (r.push c f).framed c maxPayload := by
  intro k hk
  have hc : 0 < c := Nat.lt_of_le_of_lt (Nat.zero_le _) hi.1
  obtain ⟨m, hm, hpos⟩ := r.push_position c f k hc hk
  rw [hpos, slot_push c r f _ (hsize.symm ▸ Nat.mod_lt _ hc)]
  split
  · exact hf
  · rename_i hne
    have hlt : m < r.count := Nat.lt_of_le_of_ne hm fun he => hne (by rw [hi.2.2, he])
    exact h m hlt

theorem Ring.framed_dropOldest {c maxPayload : Nat} {r : Ring} (h : r.framed c maxPayload) :
    (r.dropOldest c).framed c maxPayload := by
  rcases r.dropOldest_rd_count c with ⟨_, he⟩ | ⟨hne, hrd', hcount'⟩
  · rwa [he]
  · intro k hk
    have hslot : ((r.dropOldest c).slot (((r.dropOldest c).rd + k) % c)) = r.slot ((r.rd + (k + 1)) % c) := by
      rw [hrd', Nat.mod_add_mod, Ring.slot, Ring.slot, dropOldest_slots]
      congr 2; omega
    rw [hslot]
    exact h (k + 1) (by omega)

/-- Settles O44: only a push, a pop and reset touch the indices. -/
theorem ringInvariantsHoldAtEveryBoundary : Obligations.RingInvariantsHoldAtEveryBoundary := by
  refine ⟨⟨Build.capacity_pos Config.build_wf, Nat.zero_le _, (Nat.zero_mod _).symm⟩, fun s e h => ?_⟩
  rw [s.move_build]
  rcases s.move_ring_cases e with hsame | rfl | ⟨_, _, f, _, hpush⟩ | ⟨_, _, hpop⟩
  · rwa [hsame]
  · exact ⟨Nat.lt_of_le_of_lt (Nat.zero_le _) h.1, Nat.zero_le _, (Nat.zero_mod _).symm⟩
  · exact hpush ▸ Ring.indexed_push f h
  · exact hpop ▸ Ring.indexed_dropOldest h

end Sys2Proof.Machine
end

section
/-! Every micro-step keeps the registers sound: one case for each write that `MicroEffect` lists, with what the position
says of it (10_state.md R25, R32-R35). -/

namespace Sys2Proof.Machine

namespace State.RegistersSound

variable {s t : State}

/-- The storage and the build are as they were; what is asked of MATCHED holds. -/
theorem of_storage_eq (h : s.RegistersSound) (hbuild : t.build = s.build) (hbuf : t.respBuf = s.respBuf)
    (hring : t.ring = s.ring) (hrx : t.rx = s.rx) (htx : t.tx = s.tx) (hm : t.matchedPending) :
    t.RegistersSound where
  build := hbuild ▸ h.build
  memory := Memory.wf_of_eq s t h.memory hbuild hbuf hring hrx htx
  indexed := by rw [hring, hbuild]; exact h.indexed
  framed := by rw [hring, hbuild]; exact h.framed
  matched := hm

/-- A write to none of the registers this half of the invariant speaks of. -/
theorem of_eq (h : s.RegistersSound) (hbuild : t.build = s.build) (hbuf : t.respBuf = s.respBuf)
    (hring : t.ring = s.ring) (hrx : t.rx = s.rx) (htx : t.tx = s.tx) (hid : t.pendingId = s.pendingId)
    (hmatched : t.matched = s.matched) : t.RegistersSound :=
  h.of_storage_eq hbuild hbuf hring hrx htx
    (by unfold State.matchedPending; rw [hmatched, hid, hbuf]; exact h.matched)

/-- With MATCHED = 0 nothing is asked of PENDING_ID (10_state.md R25). -/
theorem unmatched (h : s.RegistersSound) (hm : t.matched = false) (hbuild : t.build = s.build)
    (hbuf : t.respBuf = s.respBuf) (hring : t.ring = s.ring) (hrx : t.rx = s.rx) (htx : t.tx = s.tx) :
    t.RegistersSound :=
  h.of_storage_eq hbuild hbuf hring hrx htx fun hmt => by simp [hm] at hmt

theorem goto (h : s.RegistersSound) (ν : Micro) : (s.goto ν).RegistersSound := h.of_eq rfl rfl rfl rfl rfl rfl rfl

theorem finish (h : s.RegistersSound) (st : Status) (data : List Byte) : (s.finish st data).RegistersSound :=
  h.of_eq rfl rfl rfl rfl rfl rfl rfl

theorem steer (h : s.RegistersSound) (d : Direction) : (s.steer d).RegistersSound :=
  h.of_eq (by simp) (by simp) (by simp) (by simp) (by simp) (by simp) (by simp)

theorem withRx (h : s.RegistersSound) (rest : List Byte) (hle : rest.length ≤ s.rx.length) :
    State.RegistersSound { s with rx := rest } :=
  ⟨h.build, Memory.wf_rx s rest h.memory hle, h.indexed, h.framed, h.matched⟩

theorem txAppend (h : s.RegistersSound) (b : Byte) (room : s.tx.length < s.build.txFifoDepth) :
    (s.txAppend b).RegistersSound :=
  ⟨h.build, Memory.wf_txAppend s b h.memory (decide_eq_false (Nat.not_le.mpr room)), h.indexed, h.framed, h.matched⟩

theorem arrive (h : s.RegistersSound) (side : Direction) (b : Byte) : (s.arrive side b).RegistersSound where
  build := by simpa using h.build
  memory := Memory.wf_arrive s side b h.memory
  indexed := by simpa using h.indexed
  framed := by simpa using h.framed
  matched := by simpa [State.matchedPending] using h.matched

theorem emit (h : s.RegistersSound) : s.emit.RegistersSound where
  build := by simpa using h.build
  memory := Memory.wf_emit s h.memory
  indexed := by simpa using h.indexed
  framed := by simpa using h.framed
  matched := by simpa [State.matchedPending] using h.matched

/-- Bytes behind the command byte leave RESP_BUF[0] alone (43_transport.md R184). -/
theorem storePayload (h : s.RegistersSound) (bytes : List Byte) :
    State.RegistersSound { s with respBuf := memWrite s.respBuf 1 bytes } := by
  refine ⟨h.build, Memory.wf_respBuf s _ h.memory (memWrite_length ..), h.indexed, h.framed, fun hm => ?_⟩
  obtain ⟨hne, hhead⟩ := h.matched hm
  have hpos : 1 ≤ s.respBuf.length := h.memory.1 ▸ Build.responseLen_pos h.build
  refine ⟨hne, ?_⟩
  rw [List.head?_eq_getElem?, memWrite_getElem?_outside _ _ _ _ hpos (.inl Nat.one_pos), ← List.head?_eq_getElem?]
  exact hhead

/-- RESP_BUF has room for the command byte, which then stands at its head (10_state.md R27). -/
theorem head_storeId (h : s.RegistersSound) (c : Byte) : (memWrite s.respBuf 0 [c]).head? = some c := by
  have hpos : 1 ≤ s.respBuf.length := h.memory.1 ▸ Build.responseLen_pos h.build
  rw [List.head?_eq_getElem?]
  exact memWrite_getElem?_inside s.respBuf [c] 0 0 hpos Nat.one_pos

theorem storeId (h : s.RegistersSound) (c : Byte) (hid : s.pendingId ≠ 0 ∧ c = s.pendingId) :
    State.RegistersSound { s with respBuf := memWrite s.respBuf 0 [c] } :=
  ⟨h.build, Memory.wf_respBuf s _ h.memory (memWrite_length ..), h.indexed, h.framed,
    fun _ => ⟨hid.1, (h.head_storeId c).trans (congrArg some hid.2)⟩⟩

/-- MATCHED is set where the command byte has been stored (10_state.md R25). -/
theorem latch (h : s.RegistersSound) (hid : s.pendingId ≠ 0 ∧ s.respBuf.head? = some s.pendingId) :
    State.RegistersSound { s with matched := true } :=
  ⟨h.build, h.memory, h.indexed, h.framed, fun _ => hid⟩

/-- No request is pending, so none has matched (10_state.md R25). -/
theorem matched_of_pendingId_zero (h : s.RegistersSound) (hid : s.pendingId = 0) : s.matched = false :=
  Bool.eq_false_iff.mpr fun hm => (h.matched hm).1 hid

theorem ringPush (h : s.RegistersSound) (f : List Byte)
    (hf : 1 ≤ f.length ∧ f.length ≤ s.build.maxOobPayload + 1) :
    State.RegistersSound { s with ring := s.ring.push s.build.ringCapacity f } :=
  ⟨h.build, Memory.wf_ringPush s _ f h.memory, Ring.indexed_push f h.indexed,
    Ring.framed_push h.framed h.indexed h.memory.2.1 hf, h.matched⟩

theorem ringPop (h : s.RegistersSound) :
    State.RegistersSound { s with ring := s.ring.dropOldest s.build.ringCapacity } :=
  ⟨h.build, Memory.wf_ringPop s _ h.memory, Ring.indexed_dropOldest h.indexed, Ring.framed_dropOldest h.framed,
    h.matched⟩

/-- After reset the registers are sound, for every build that obeys 00_scope.md R7 (70_reset_and_hazards.md R291). -/
theorem resetOf (b : Build) (hb : b.wf = true) : (State.resetOf b).RegistersSound where
  build := hb
  memory := Memory.wf_resetOf b
  indexed := ⟨Build.capacity_pos hb, Nat.zero_le _, (Nat.zero_mod _).symm⟩
  framed := fun k hk => absurd hk (Nat.not_lt_zero k)
  matched := nofun

end State.RegistersSound

/-- A micro-step at a sound position keeps the registers sound. -/
theorem MicroEffect.registersSound {i : Instr} {μ : Micro} {s t : State} (h : MicroEffect i μ s t)
    (hr : s.RegistersSound) (hs : s.SoundAt i μ) : t.RegistersSound := by
  cases h with
  | finish st data => exact hr.finish st data
  | jump ν => exact hr.goto ν
  | steer d next => exact (hr.steer d).goto next
  | push b rest next room => exact (hr.txAppend b room).goto _
  | takeRx rest ν shorter => exact (hr.withRx rest shorter).goto ν
  | storePayload bytes ν => exact (hr.storePayload bytes).goto ν
  | clearPending st data ν => exact hr.unmatched rfl rfl rfl rfl rfl rfl
  | storeId c ν => exact (hr.storeId c hs.leaf).goto ν
  | latch ν => exact (hr.latch hs.leaf).goto ν
  | ringPush f ν => exact (hr.ringPush f hs.leaf).goto ν
  | ringPop ν => exact hr.ringPop.goto ν
  | setPending flags bytes ν =>
    exact hr.unmatched (hr.matched_of_pendingId_zero hs.leaf) rfl rfl rfl rfl rfl
  | clearMatched flags bytes ν => exact hr.unmatched rfl rfl rfl rfl rfl rfl
  | _ => exact hr.of_eq rfl rfl rfl rfl rfl rfl rfl

end Sys2Proof.Machine
end

section
/-! Every micro-step goes on at a sound position: what each statement establishes for the one behind it (43_transport.md
R180-R189, 42_arbiter.md R160). -/

namespace Sys2Proof.Machine

/-- The receiving positions hold no selector write. -/
theorem Micro.steerFree_of_inResponseLoop {μ : Micro} (h : μ.inResponseLoop = true) : μ.steerFree = true := by
  induction μ with
  | wait back ih => exact ih h
  | flush d next => simp [Micro.inResponseLoop] at h
  | steer d next => simp [Micro.inResponseLoop] at h
  | push bytes next => simp [Micro.inResponseLoop] at h
  | _ => rfl

/-- What a position asks still holds where the registers it reads are as they were and RX has lost nothing. -/
theorem State.demands_mono {s t : State} {μ : Micro} (h : s.demands μ) (hid : t.pendingId = s.pendingId)
    (hbuf : t.respBuf = s.respBuf) (hbuild : t.build = s.build) (hrx : s.rx.length ≤ t.rx.length) : t.demands μ := by
  rw [State.demands_iff] at h ⊢
  obtain ⟨hstore, hprobe, hsend, hpop, hfits⟩ := h
  rw [hid, hbuf, hbuild]
  exact ⟨hstore, hprobe, hsend, fun he => Nat.le_trans (hpop he) hrx, hfits⟩

namespace State.SoundAt

variable {s t : State} {i : Instr} {μ ν : Micro}

theorem steerFree (h : s.SoundAt i μ) (hne : ∀ d next, μ ≠ .steer d next) : μ.steerFree = true :=
  h.steer.resolve_right fun ⟨d, next, he, _⟩ => hne d next he

/-- Outside GET_RESP's loop no response length is recorded (43_transport.md R189). -/
theorem noLength (h : s.SoundAt i μ) (hout : μ.inResponseLoop = false) : s.expectedLen = 0 :=
  Decidable.byContradiction fun hne => by simp [(h.length hne).2] at hout

/-- No command but GET_RESP has a response length recorded (43_transport.md R189). -/
theorem noLength_of_command (h : s.SoundAt i μ) (hi : ∀ cap, i ≠ .getResp cap) : s.expectedLen = 0 :=
  Decidable.byContradiction fun hne => (h.length hne).1.elim hi

/-- A position with no response length recorded. -/
theorem outside (he : t.expectedLen = 0) (hd : t.demands ν.leaf) (hs : ν.steerFree = true) : t.SoundAt i ν :=
  ⟨fun hne => absurd he hne, hd, .inl hs⟩

/-- From one position of the receiving routines to another: the command, and with it GET_RESP's loop, stays. -/
theorem loop (h : s.SoundAt i μ) (he : t.expectedLen = s.expectedLen) (hν : ν.inResponseLoop = true)
    (hd : t.demands ν.leaf) : t.SoundAt i ν :=
  ⟨fun hne => ⟨(h.length (he ▸ hne)).1, hν⟩, hd, .inl (Micro.steerFree_of_inResponseLoop hν)⟩

/-- A `Wait()` asks what the position behind it asks. -/
theorem wait (h : s.SoundAt i μ) (hs : μ.steerFree = true) : s.SoundAt i (.wait μ) := ⟨h.length, h.leaf, .inl hs⟩

end State.SoundAt

theorem State.Positioned.goto {s : State} {i : Instr} {μ ν : Micro} (hp : s.phase = .busy i μ) (h : s.SoundAt i ν) :
    (s.goto ν).Positioned :=
  (State.positioned_busy (by simp [hp])).mpr ⟨h.length, h.leaf, h.steer⟩

theorem State.Positioned.finish {s : State} (he : s.expectedLen = 0) (st : Status) (data : List Byte) :
    (s.finish st data).Positioned :=
  (State.positioned_idle rfl).mpr he

/-! ## The shared micro-steps -/

section

variable {s : State} {i : Instr} {μ : Micro}

theorem baseStep_positioned (hp : s.phase = .busy i μ) (h : s.SoundAt i μ) : (baseStep μ s).Positioned := by
  cases μ with
  | wait back => exact .goto hp ⟨h.length, h.leaf, .inl (h.steerFree nofun)⟩
  | flush d next =>
    have hlen := h.noLength rfl
    dsimp only [baseStep]
    rcases flushStep_cases d next s with ⟨hempty, he⟩ | ⟨_, he⟩ <;> rw [he]
    · exact .goto hp ⟨fun hne => absurd hlen hne, h.leaf, .inr ⟨d, next, rfl, h.steerFree nofun, hempty⟩⟩
    · exact .goto hp (h.wait (h.steerFree nofun))
  | steer d next =>
    obtain hfree | ⟨_, _, hsteer, hfree, _⟩ := h.steer
    · cases hfree
    · cases hsteer
      have hlen : (s.steer d).expectedLen = 0 := by simpa using h.noLength rfl
      have hleaf : (s.steer d).demands next.leaf :=
        State.demands_mono (μ := next.leaf) h.leaf (by simp) (by simp) (by simp) (by simp)
      exact .goto (μ := .steer d next) (by simpa using hp) (.outside hlen hleaf hfree)
  | push bytes next =>
    have hlen := h.noLength rfl
    have hfree := h.steerFree nofun
    dsimp only [baseStep]
    rcases pushStep_cases bytes next s with ⟨_, he⟩ | ⟨_, _, _, _, he⟩ | ⟨b, rest, rfl, _, he⟩ <;> rw [he]
    · exact .goto hp (.outside hlen h.leaf hfree)
    · exact .goto hp (h.wait hfree)
    · have hleaf : (s.txAppend b).demands next.leaf :=
        State.demands_mono (μ := next.leaf) h.leaf rfl rfl rfl (Nat.le_refl _)
      exact .goto (s := s.txAppend b) hp (.outside hlen hleaf hfree)
  | finish st data => exact .finish (h.noLength rfl) st data
  | _ => exact .goto hp (h.wait rfl)

theorem payloadStep_positioned (hp : s.phase = .busy i μ) (h : s.SoundAt i μ) : (payloadStep μ s).Positioned := by
  cases μ with
  | readStart n k =>
    refine .goto hp (h.loop rfl rfl ?_)
    cases k <;> exact h.leaf
  | readInit n t k =>
    refine .goto hp (h.loop rfl rfl ?_)
    cases k with
    | payload m => trivial
    | oob c e => exact ⟨h.leaf.1, h.leaf.2, Nat.zero_le _⟩
  | reading n t got k =>
    have hdone : s.demands (.readDone got k) := by
      cases k with
      | payload m => trivial
      | oob c e =>
        obtain ⟨hn, hfits, hgot⟩ := h.leaf
        exact ⟨hfits, hn ▸ hgot⟩
    dsimp only [payloadStep]
    rcases readStep_cases n t got k s with ⟨_, he⟩ | ⟨b, rest, hlt, _, he⟩ | ⟨_, _, _, he⟩ | ⟨_, _, _, he⟩ <;> rw [he]
    · exact .goto hp (h.loop rfl rfl hdone)
    · refine .goto (s := { s with rx := rest }) hp (h.loop rfl rfl ?_)
      cases k with
      | payload m => trivial
      | oob c e =>
        obtain ⟨hn, hfits, -⟩ := h.leaf
        exact ⟨hn, hfits, by simpa using hlt⟩
    · exact .goto hp (h.loop rfl rfl hdone)
    · exact .goto hp (h.wait rfl)
  | readDone got k =>
    dsimp only [payloadStep]
    rcases readDoneStep_cases got k s with
      ⟨n, _, _, he⟩ | ⟨n, _, _, he⟩ | ⟨c, e, _, _, he⟩ | ⟨c, e, rfl, hall, he⟩ <;> rw [he]
    · exact .goto hp (h.loop rfl rfl trivial)
    · exact .goto hp (h.loop rfl rfl trivial)
    · exact .goto hp (h.loop rfl rfl trivial)
    · refine .goto hp (h.loop rfl rfl ?_)
      obtain ⟨hfits, hgot⟩ : e ≤ s.build.maxOobPayload ∧ got.length ≤ 2 * e := h.leaf
      have hframe : (decodePairs got).length = e := decodePairs_length_two_mul e got (by omega)
      exact ⟨by simp, by simpa [hframe] using hfits⟩
  | payloadLen => exact .goto hp (h.loop rfl rfl trivial)
  | payloadStore bytes =>
    exact .goto (s := { s with respBuf := memWrite s.respBuf 1 bytes }) hp (h.loop rfl rfl trivial)
  | payloadDiscard => exact .goto (s := s.rxDiscard) hp (h.loop rfl rfl trivial)
  | release st data =>
    have hlen := h.noLength rfl
    dsimp only [payloadStep]
    split <;> exact .goto hp (.outside hlen trivial rfl)
  | clear st data => exact .goto (s := s.clearPending) hp (.outside rfl trivial rfl)
  | _ => exact baseStep_positioned hp h

theorem receiveStep_positioned (hr : s.RegistersSound) (hp : s.phase = .busy i μ) (h : s.SoundAt i μ) :
    (receiveStep μ s).Positioned := by
  cases μ with
  | scanPop =>
    dsimp only [receiveStep]
    rcases scanPopStep_cases s with ⟨_, _, rest, _, he⟩ | ⟨_, he⟩ <;> rw [he]
    · exact .goto (s := { s with rx := rest }) hp (h.loop rfl rfl trivial)
    · exact .goto hp (h.wait rfl)
  | scanDecode p => exact .goto hp (h.loop rfl rfl trivial)
  | scanMatch c =>
    dsimp only [receiveStep]
    split
    · rename_i hid
      exact .goto hp (h.loop rfl rfl hid)
    · exact .goto hp (h.loop rfl rfl trivial)
  | scanStore c =>
    obtain ⟨hid, hc⟩ : s.pendingId ≠ 0 ∧ c = s.pendingId := h.leaf
    have hhead : (memWrite s.respBuf 0 [c]).head? = some s.pendingId := (hr.head_storeId c).trans (congrArg some hc)
    exact .goto (s := { s with respBuf := memWrite s.respBuf 0 [c] }) hp (h.loop rfl rfl ⟨hid, hhead⟩)
  | scanProbe =>
    dsimp only [receiveStep]
    split
    · exact .goto hp (h.loop rfl rfl h.leaf)
    · exact .goto hp (h.loop rfl rfl trivial)
  | scanLatch => exact .goto (s := { s with matched := true }) hp (h.loop rfl rfl trivial)
  | oobLookup c =>
    refine .goto hp (h.loop rfl rfl ?_)
    cases he : s.build.oobLen c with
    | none => trivial
    | some e => exact Build.oobLen_le hr.build he
  | oobKnown c e =>
    dsimp only [receiveStep]
    rcases oobKnownStep_cases c e s with ⟨_, he⟩ | ⟨n, rfl, he⟩ <;> rw [he]
    · exact .goto hp (h.loop rfl rfl trivial)
    · exact .goto hp (h.loop rfl rfl ⟨rfl, h.leaf⟩)
  | oobDiscard kind c => exact .goto (s := s.rxDiscard) hp (h.loop rfl rfl trivial)
  | oobLog kind c => exact .goto (s := s.logEvent kind c) hp (h.loop rfl rfl trivial)
  | oobPush f =>
    exact .goto (s := { s with ring := s.ring.push s.build.ringCapacity f }) hp (h.loop rfl rfl trivial)
  | _ => exact payloadStep_positioned hp h

/-! ## The commands -/

theorem microSessionInit_positioned {bytes : List Byte} (hp : s.phase = .busy (.sessionInit bytes) μ)
    (h : s.SoundAt (.sessionInit bytes) μ) :
    (microSessionInit bytes μ s).Positioned := by
  have hlen := h.noLength_of_command nofun
  cases μ with
  | start => exact .goto hp (.outside hlen trivial rfl)
  | connect => exact .goto (s := { s with connected := true }) hp (.outside hlen trivial rfl)
  | _ => exact baseStep_positioned hp h

/-- Behind SEND_REQ's Busy test no request is pending, up to the write of PENDING_ID (43_transport.md R186). -/
theorem microSendReq_positioned {flags : Byte} {bytes : List Byte}
    (hp : s.phase = .busy (.sendReq flags bytes) μ) (h : s.SoundAt (.sendReq flags bytes) μ) :
    (microSendReq flags bytes μ s).Positioned := by
  have hlen := h.noLength_of_command nofun
  cases μ with
  | start =>
    dsimp only [microSendReq]
    split
    · exact .goto hp (.outside hlen trivial rfl)
    · exact .finish hlen _ _
  | sendBusy =>
    dsimp only [microSendReq]
    split
    · exact .finish hlen _ _
    · rename_i hid
      exact .goto hp (.outside hlen (not_not.mp hid) rfl)
  | sendParam =>
    dsimp only [microSendReq]
    split
    · exact .finish hlen _ _
    · exact .goto hp (.outside hlen h.leaf rfl)
  | spacing =>
    dsimp only [microSendReq]
    split <;> exact .goto hp (.outside hlen h.leaf rfl)
  | setPending =>
    exact .goto (s := { s with pendingId := requestId flags bytes }) hp (.outside hlen trivial rfl)
  | clearLen => exact .goto (s := { s with expectedLen := 0 }) hp (.outside rfl trivial rfl)
  | clearMatched => exact .goto (s := { s with matched := false }) hp (.outside hlen trivial rfl)
  | stampTime => exact .goto (s := { s with lastSend := s.now }) hp (.outside hlen trivial rfl)
  | stampValid => exact .goto (s := { s with lastSendValid := true }) hp (.outside hlen trivial rfl)
  | _ => exact baseStep_positioned hp h

/-- GET_RESP records a length on the way into its loop, and every way out of the loop is CLEAR_PENDING's (43_transport.md
R187, R189). -/
theorem microGetResp_positioned {cap : BitVec 16} (hr : s.RegistersSound) (hp : s.phase = .busy (.getResp cap) μ)
    (h : s.SoundAt (.getResp cap) μ) : (microGetResp cap μ s).Positioned := by
  cases μ with
  | start => exact .goto (s := { s with getT0 := s.now }) hp (.outside (h.noLength rfl) trivial rfl)
  | respPending =>
    have hlen := h.noLength rfl
    dsimp only [microGetResp]
    split <;> exact .goto hp (.outside hlen trivial rfl)
  | respCap =>
    have hlen := h.noLength rfl
    dsimp only [microGetResp]
    split <;> exact .goto hp (.outside hlen trivial rfl)
  | respLen =>
    exact .goto (s := { s with expectedLen := capByte cap }) hp ⟨fun _ => ⟨⟨cap, rfl⟩, rfl⟩, trivial, .inl rfl⟩
  | respLoop =>
    dsimp only [microGetResp]
    split
    · exact .goto hp (h.loop rfl rfl trivial)
    · split
      · rename_i hpair
        exact .goto hp (h.loop rfl rfl hpair)
      · exact .goto hp (h.loop rfl rfl trivial)
  | scanned r => dsimp only [microGetResp]; split <;> exact .goto hp (h.loop rfl rfl trivial)
  | respCollect => exact .goto hp (h.loop rfl rfl trivial)
  | respShort r => dsimp only [microGetResp]; split <;> exact .goto hp (h.loop rfl rfl trivial)
  | respDeadline r => dsimp only [microGetResp]; split <;> exact .goto hp (h.loop rfl rfl trivial)
  | respYield r => dsimp only [microGetResp]; split <;> exact .goto hp (h.loop rfl rfl trivial)
  | _ => exact receiveStep_positioned hr hp h

/-- POP_NOTIF records no response length, so its way out of the scan is as free as its way in (43_transport.md R188). -/
theorem microPopNotif_positioned (hr : s.RegistersSound) (hp : s.phase = .busy .popNotif μ)
    (h : s.SoundAt .popNotif μ) : (microPopNotif μ s).Positioned := by
  have hlen := h.noLength_of_command nofun
  cases μ with
  | start => dsimp only [microPopNotif]; split <;> exact .goto hp (.outside hlen trivial rfl)
  | popMatched => dsimp only [microPopNotif]; split <;> exact .goto hp (.outside hlen trivial rfl)
  | popLoop =>
    dsimp only [microPopNotif]
    split
    · rename_i hpair
      exact .goto hp (.outside hlen hpair rfl)
    · exact .goto hp (.outside hlen trivial rfl)
  | scanned r => dsimp only [microPopNotif]; split <;> exact .goto hp (.outside hlen trivial rfl)
  | popRing =>
    exact .goto (s := { s with ring := s.ring.dropOldest s.build.ringCapacity }) hp (.outside hlen trivial rfl)
  | popped f =>
    dsimp only [microPopNotif]
    rcases poppedStep_cases f s with ⟨_, he⟩ | ⟨_, _, he⟩ <;> rw [he] <;> exact .goto hp (.outside hlen trivial rfl)
  | _ => exact receiveStep_positioned hr hp h

theorem microCfgRead_positioned {idx : CfgIndex} (hp : s.phase = .busy (.cfgRead idx) μ)
    (h : s.SoundAt (.cfgRead idx) μ) :
    (microCfgRead idx μ s).Positioned := by
  have hlen := h.noLength_of_command nofun
  cases μ with
  | start =>
    dsimp only [microCfgRead]
    rcases cfgReadStep_cases idx s with ⟨_, he⟩ | ⟨_, _, he⟩ <;> rw [he]
    · exact .finish hlen _ _
    · exact .goto hp (.outside hlen trivial rfl)
  | cfgLoad =>
    dsimp only [microCfgRead]
    rcases cfgLoadStep_cases idx s with ⟨_, he⟩ | ⟨_, _, he⟩ <;> rw [he]
    · exact .goto hp (h.wait rfl)
    · exact .goto hp (.outside hlen trivial rfl)
  | _ => exact baseStep_positioned hp h

theorem microCfgWrite_positioned {idx : CfgIndex} {v : CfgWord} (hp : s.phase = .busy (.cfgWrite idx v) μ)
    (h : s.SoundAt (.cfgWrite idx v) μ) :
    (microCfgWrite idx v μ s).Positioned := by
  have hlen := h.noLength_of_command nofun
  cases μ with
  | start =>
    dsimp only [microCfgWrite]
    rcases cfgWriteStep_cases idx v s with he | ⟨_, he⟩ | ⟨_, he⟩ | ⟨_, he⟩ <;> rw [he]
    · exact .finish hlen _ _
    · exact .goto (s := { s with respTimeoutMs := v }) hp (.outside hlen trivial rfl)
    · exact .goto (s := { s with reqDelayMs := v }) hp (.outside hlen trivial rfl)
    · exact .goto (s := { s with release := v.getLsbD 0 }) hp (.outside hlen trivial rfl)
  | _ => exact baseStep_positioned hp h

/-- Every micro-step of every command goes on at a sound position, or ends the command with no response length
recorded. -/
theorem microOf_positioned (hr : s.RegistersSound) (hp : s.phase = .busy i μ) (h : s.SoundAt i μ) :
    (microOf i μ s).Positioned := by
  cases i with
  | decNibble ch => cases μ with
    | start => exact .finish (h.noLength rfl) _ _
    | _ => exact baseStep_positioned hp h
  | decByte hi lo => cases μ with
    | start => exact .finish (h.noLength rfl) _ _
    | _ => exact baseStep_positioned hp h
  | encByte b => cases μ with
    | start => exact .finish (h.noLength rfl) _ _
    | _ => exact baseStep_positioned hp h
  | busDev => cases μ with
    | start => exact .goto hp (.outside (h.noLength rfl) trivial rfl)
    | _ => exact baseStep_positioned hp h
  | busCon => cases μ with
    | start => exact .goto hp (.outside (h.noLength rfl) trivial rfl)
    | _ => exact baseStep_positioned hp h
  | busDir => cases μ with
    | start => exact .finish (h.noLength rfl) _ _
    | _ => exact baseStep_positioned hp h
  | conWrite bytes => cases μ with
    | start => exact .goto hp (.outside (h.noLength rfl) trivial rfl)
    | _ => exact baseStep_positioned hp h
  | sessionInit bytes => exact microSessionInit_positioned hp h
  | sendReq flags bytes => exact microSendReq_positioned hp h
  | getResp cap => exact microGetResp_positioned hr hp h
  | popNotif => exact microPopNotif_positioned hr hp h
  | ringAvail => cases μ with
    | start => exact .finish (h.noLength rfl) _ _
    | _ => exact baseStep_positioned hp h
  | cfgRead idx => exact microCfgRead_positioned hp h
  | cfgWrite idx v => exact microCfgWrite_positioned hp h

end

end Sys2Proof.Machine
end

section
/-! The invariant, at reset, over a move of any agent, and over a whole step (10_state.md R25, R32-R35, 43_transport.md
R189). -/

namespace Sys2Proof.Machine

theorem State.inv_resetOf (b : Build) (hb : b.wf = true) : (State.resetOf b).Inv :=
  (State.inv_iff _).mpr ⟨.resetOf b hb, (State.positioned_idle rfl).mpr rfl⟩

/-- Settles O55. -/
theorem invariantHoldsAtReset : Obligations.InvariantHoldsAtReset := State.inv_resetOf _ Config.build_wf

/-- A move of the environment that leaves PHASE and the registers a position reads as they are, takes nothing from RX and
adds nothing to TX. -/
theorem State.Positioned.of_eq {s t : State} (h : s.Positioned) (hp : t.phase = s.phase)
    (hlen : t.expectedLen = s.expectedLen) (hid : t.pendingId = s.pendingId) (hbuf : t.respBuf = s.respBuf)
    (hbuild : t.build = s.build) (hrx : s.rx.length ≤ t.rx.length) (htx : s.tx = [] → t.tx = []) : t.Positioned := by
  cases hs : s.phase with
  | idle =>
    rw [State.positioned_idle hs] at h
    exact (State.positioned_idle (hp.trans hs)).mpr (hlen.trans h)
  | busy i μ =>
    rw [State.positioned_busy hs] at h
    refine (State.positioned_busy (hp.trans hs)).mpr ⟨hlen ▸ h.length, State.demands_mono h.leaf hid hbuf hbuild hrx, ?_⟩
    exact h.steer.imp id fun ⟨d, next, he, hfree, hempty⟩ => ⟨d, next, he, hfree, htx hempty⟩

theorem State.Inv.seqStep {s : State} (h : s.Inv) : (seqStep s).Inv := by
  obtain ⟨hr, hpos⟩ := s.inv_iff.mp h
  rcases seqStep_cases s with ⟨_, he⟩ | ⟨i, μ, hp, heffect⟩
  · rwa [he]
  · have hsound := (State.positioned_busy hp).mp hpos
    refine (State.inv_iff _).mpr ⟨heffect.registersSound hr hsound, ?_⟩
    rw [seqStep_busy s i μ hp]
    exact microOf_positioned hr hp hsound

/-- Settles O56: the sequencer's move is `State.Inv.seqStep`, and the environment's leave PHASE alone or reset it. -/
theorem everyMoveKeepsTheInvariant : Obligations.EveryMoveKeepsTheInvariant := by
  intro s e h
  obtain ⟨hr, hpos⟩ := s.inv_iff.mp h
  cases e with
  | command bytes => exact h
  | seq => exact h.seqStep
  | arrive side b =>
    refine (State.inv_iff _).mpr ⟨hr.arrive side b, hpos.of_eq ?_ ?_ ?_ ?_ ?_ ?_ ?_⟩ <;> simp [State.move]
    split <;> simp
  | emit => refine (State.inv_iff _).mpr ⟨hr.emit, hpos.of_eq ?_ ?_ ?_ ?_ ?_ ?_ ?_⟩ <;> simp +contextual [State.move]
  | tick ms =>
    exact (State.inv_iff _).mpr
      ⟨hr.of_eq rfl rfl rfl rfl rfl rfl rfl, hpos.of_eq rfl rfl rfl rfl rfl (Nat.le_refl _) id⟩
  | reset =>
    have hreset := State.RegistersSound.resetOf s.build h.build
    exact (State.inv_iff _).mpr ⟨hreset.of_eq rfl rfl rfl rfl rfl rfl rfl, (State.positioned_idle rfl).mpr rfl⟩

/-- The moves still to come are no part of the invariant. -/
theorem State.Inv.withInputs {s : State} (h : s.Inv) (l : List Input) (n : Nat) :
    State.Inv { s with inputs := l, rounds := n } := by
  obtain ⟨hr, hpos⟩ := s.inv_iff.mp h
  exact (State.inv_iff _).mpr
    ⟨hr.of_eq rfl rfl rfl rfl rfl rfl rfl, hpos.of_eq rfl rfl rfl rfl rfl (Nat.le_refl _) id⟩

/-- A command is issued at a sound position (10_state.md R36). -/
theorem State.Inv.issue {s : State} (h : s.Inv) (hp : s.phase = .idle) (i : Instr) :
    State.Inv { s with phase := .busy i .start } := by
  obtain ⟨hr, hpos⟩ := s.inv_iff.mp h
  have hlen := (State.positioned_idle hp).mp hpos
  exact (State.inv_iff _).mpr
    ⟨hr.of_eq rfl rfl rfl rfl rfl rfl rfl, (State.positioned_busy rfl).mpr (.outside (ν := .start) hlen trivial rfl)⟩

theorem State.Inv.raise {s : State} (h : s.Inv) (hp : s.phase = .idle) (st : Status) : (s.raise st).Inv := by
  obtain ⟨hr, hpos⟩ := s.inv_iff.mp h
  exact (State.inv_iff _).mpr ⟨hr.finish st [], .finish ((State.positioned_idle hp).mp hpos) st []⟩

theorem exec_keeps_inv (i : Instr) (s t : State) (h : exec i s = .next t) (hs : s.Inv) : t.Inv :=
  exec_keeps State.Inv everyMoveKeepsTheInvariant (fun _ l n hu => hu.withInputs l n)
    (fun _ j hp hu => hu.issue hp j) i s t h hs

/-- Settles O57: each case of `step` is a run, a move, or an entry of moves. -/
theorem everyStepKeepsTheInvariant : Obligations.EveryStepKeepsTheInvariant := by
  intro s t hs h
  rcases step_cases s with ⟨i, _, _, he⟩ | ⟨_, _, he⟩ | ⟨_, rest, i, _, _, _, he⟩ | ⟨_, rest, _, hp, _, _, he⟩ |
    ⟨_, _, _, _, he⟩ | ⟨e, rest, hp, _, he⟩ <;> rw [he] at h
  · exact exec_keeps_inv i s t h hs
  · cases h
    exact State.refill_keeps State.Inv (fun _ l n hu => hu.withInputs l n) s hs
  · exact exec_keeps_inv i { s with inputs := rest } t h (hs.withInputs rest s.rounds)
  · cases h
    exact (hs.withInputs rest s.rounds).raise hp .illegalOp
  · cases h
  · cases h
    rw [envMove_eq_move { s with inputs := rest } e hp]
    exact everyMoveKeepsTheInvariant _ e (hs.withInputs rest s.rounds)

end Sys2Proof.Machine
end

section
/-! A pair of characters is its two nibbles, side by side (20_memory.md R61). -/

namespace Sys2Proof.Machine

theorem pair_eq_append (h l : Byte) : pair h l = hexval h ++ hexval l := by
  simp only [pair, BitVec.append_def, BitVec.shiftLeftZeroExtend_eq]
  rfl

/-- Settles O9: the nibbles of a concatenation are its halves. -/
theorem pairIsHighNibbleFirst : Obligations.PairIsHighNibbleFirst := by
  intro h l
  rw [pair_eq_append]
  exact ⟨BitVec.extractLsb'_append_eq_left, BitVec.extractLsb'_append_eq_right⟩

end Sys2Proof.Machine
end

section
/-! The environment's moves on the FIFOs and the clock, one rule per case (20_memory.md R69, R70, 00_scope.md R5). -/

namespace Sys2Proof.Machine

variable (s : State)

/-- A byte on the side that is not selected is lost (20_memory.md R69). -/
theorem State.arrive_unselected {side : Direction} (b : Byte) (h : side ≠ s.dir) : s.arrive side b = s :=
  if_neg fun hc => h hc.1

theorem State.arrive_room (b : Byte) (h : s.rx.length < s.build.rxFifoDepth) :
    s.arrive s.dir b = { s with rx := s.rx ++ [b] } :=
  if_pos ⟨rfl, h⟩

/-- A byte for which RX has no room is lost (20_memory.md R69). -/
theorem State.arrive_full (b : Byte) (h : s.build.rxFifoDepth ≤ s.rx.length) : s.arrive s.dir b = s :=
  if_neg fun hc => Nat.not_lt.mpr h hc.2

theorem State.emit_cons {b : Byte} {bs : List Byte} (h : s.tx = b :: bs) :
    s.emit = { s with tx := bs, history := s.history ++ [.wire s.dir b] } := by
  unfold State.emit; rw [h]

/-- With TX empty the serializer has no move (20_memory.md R70; log entry 15). -/
theorem State.emit_nil (h : s.tx = []) : s.emit = s := by
  unfold State.emit; rw [h]

/-- Settles O52. -/
theorem environmentMovesFollowTheirRules : Obligations.EnvironmentMovesFollowTheirRules := fun s =>
  ⟨fun _ b => s.arrive_unselected b, s.arrive_room, s.arrive_full, fun _ _ => s.emit_cons, s.emit_nil, fun _ => rfl⟩

end Sys2Proof.Machine
end

section
/-! A quiet run through the micro-steps every command shares: one rule for each of Wait, SWITCH, TxPush and finish
(42_arbiter.md R160, 20_memory.md R70, 00_scope.md R11). -/

namespace Sys2Proof.Machine

/-! ## A command at a position -/

/-- The command `i` stands at `μ`. -/
def State.busyAt (s : State) (i : Instr) (μ : Micro) : State := { s with phase := .busy i μ }

theorem State.busyAt_of_phase {s : State} {i : Instr} {μ : Micro} (h : s.phase = .busy i μ) : s.busyAt i μ = s := by
  rw [State.busyAt, ← h]

/-- A `Wait()` rests the sequencer, and nothing else does while a command is in progress (00_scope.md R11). -/
theorem State.busyAt_resting (s : State) (i : Instr) {μ : Micro} (h : ∀ back, μ ≠ .wait back) :
    (s.busyAt i μ).resting = false := by
  rcases (s.busyAt i μ).resting_cases with ⟨_, hidle | ⟨j, back, hwait⟩⟩ | ⟨hrest, _⟩
  · cases hidle
  · cases hwait
    exact absurd rfl (h back)
  · exact hrest

/-! ## The shared micro-steps, whichever command runs them -/

theorem microOf_wait (i : Instr) (back : Micro) (s : State) : microOf i (.wait back) s = s.goto back := by
  cases i <;> rfl

theorem microOf_flush (i : Instr) (d : Direction) (next : Micro) (s : State) :
    microOf i (.flush d next) s = flushStep d next s := by cases i <;> rfl

theorem microOf_steer (i : Instr) (d : Direction) (next : Micro) (s : State) :
    microOf i (.steer d next) s = (s.steer d).goto next := by cases i <;> rfl

theorem microOf_push (i : Instr) (bytes : List Byte) (next : Micro) (s : State) :
    microOf i (.push bytes next) s = pushStep bytes next s := by cases i <;> rfl

theorem microOf_finish (i : Instr) (st : Status) (data : List Byte) (s : State) :
    microOf i (.finish st data) s = s.finish st data := by cases i <;> rfl

theorem State.steer_eq_onSide (s : State) (d : Direction) : s.steer d = s.onSide d := by
  unfold State.steer State.onSide
  split
  · rename_i h
    rw [List.append_nil, ← h]
  · rfl

namespace QuietTo

variable {s t u : State} {i : Instr}

/-! ## The rules -/

/-- A micro-step that does not come to a `Wait()`, and then the rest of the run. -/
theorem goAt {μ ν : Micro} (h : microOf i μ (s.busyAt i μ) = u.busyAt i ν) (hν : ∀ back, ν ≠ .wait back)
    (ht : QuietTo (u.busyAt i ν) t) : QuietTo (s.busyAt i μ) t := by
  have hstep : seqStep (s.busyAt i μ) = u.busyAt i ν := h
  exact .go _ _ (hstep ▸ u.busyAt_resting i hν) (hstep ▸ ht)

/-- A micro-step to a `Wait()` ends the run. -/
theorem waitAt {μ back : Micro} (h : microOf i μ (s.busyAt i μ) = u.busyAt i (.wait back)) :
    QuietTo (s.busyAt i μ) (u.busyAt i (.wait back)) := by
  have hstep : seqStep (s.busyAt i μ) = u.busyAt i (.wait back) := h
  exact hstep ▸ .rest _ (hstep ▸ rfl)

theorem wait {back : Micro} (hback : ∀ b, back ≠ .wait b) (ht : QuietTo (s.busyAt i back) t) :
    QuietTo (s.busyAt i (.wait back)) t :=
  goAt (microOf_wait i back _) hback ht

theorem finish (st : Status) (data : List Byte) : QuietTo (s.busyAt i (.finish st data)) (s.answered st data) := by
  have hstep : seqStep (s.busyAt i (.finish st data)) = s.answered st data :=
    microOf_finish i st data _
  exact hstep ▸ .rest _ (hstep ▸ rfl)

/-- SWITCH with TX empty goes through to its caller (42_arbiter.md R160). -/
theorem switch {d : Direction} {next : Micro} (htx : s.tx = []) (hnext : ∀ back, next ≠ .wait back)
    (ht : QuietTo ((s.onSide d).busyAt i next) t) : QuietTo (s.busyAt i (switchTo d next)) t := by
  refine goAt (u := s) (ν := .steer d next) ?flushed nofun (goAt (u := s.onSide d) ?steered hnext ht)
  case flushed =>
    rw [switchTo, microOf_flush]
    exact if_pos htx
  case steered =>
    rw [microOf_steer, State.steer_eq_onSide]
    rfl

/-- TxPush of the last byte returns to its caller (20_memory.md R70). -/
theorem pushNil {next : Micro} (hnext : ∀ back, next ≠ .wait back) (ht : QuietTo (s.busyAt i next) t) :
    QuietTo (s.busyAt i (.push [] next)) t :=
  goAt (microOf_push i [] next _) hnext ht

/-- TxPush of as many bytes as there is room for queues them in order (20_memory.md R70). -/
theorem pushFront {next : Micro} (front back : List Byte) (room : s.tx.length + front.length ≤ s.build.txFifoDepth)
    (ht : QuietTo (State.busyAt { s with tx := s.tx ++ front } i (.push back next)) t) :
    QuietTo (s.busyAt i (.push (front ++ back) next)) t := by
  induction front generalizing s with
  | nil => simpa using ht
  | cons b front ih =>
    rw [List.length_cons] at room
    have hrest : QuietTo ((s.txAppend b).busyAt i (.push (front ++ back) next)) t :=
      ih (by simp; omega) (by simpa [State.txAppend] using ht)
    refine goAt (ν := .push (front ++ back) next) ?_ nofun hrest
    have hroom : (s.busyAt i (.push (b :: (front ++ back)) next)).txFull = false :=
      decide_eq_false (by change ¬ s.build.txFifoDepth ≤ s.tx.length; omega)
    rw [List.cons_append, microOf_push, pushStep, hroom]
    rfl

/-- TxPush of bytes that all have room goes on to its caller (20_memory.md R70). -/
theorem pushAll {next : Micro} (bytes : List Byte) (room : s.tx.length + bytes.length ≤ s.build.txFifoDepth)
    (hnext : ∀ back, next ≠ .wait back) (ht : QuietTo (State.busyAt { s with tx := s.tx ++ bytes } i next) t) :
    QuietTo (s.busyAt i (.push bytes next)) t := by
  simpa using pushFront bytes [] room (pushNil hnext ht)

/-- TxPush with TX full waits (20_memory.md R70). -/
theorem pushFull {next : Micro} {bytes : List Byte} (full : s.build.txFifoDepth ≤ s.tx.length) (hne : bytes ≠ []) :
    QuietTo (s.busyAt i (.push bytes next)) (s.busyAt i (.wait (.push bytes next))) := by
  refine waitAt (u := s) ?_
  obtain ⟨b, rest, rfl⟩ := List.exists_cons_of_ne_nil hne
  have hfull : (s.busyAt i (.push (b :: rest) next)).txFull = true := decide_eq_true full
  rw [microOf_push, pushStep, hfull]
  rfl

/-- TxPush of more bytes than there is room for fills TX, and waits with the others (20_memory.md R70). -/
theorem pushFill {next : Micro} {bytes : List Byte} {k : Nat} (room : s.tx.length + k = s.build.txFifoDepth)
    (more : k < bytes.length) :
    QuietTo (s.busyAt i (.push bytes next))
      (State.busyAt { s with tx := s.tx ++ bytes.take k } i (.wait (.push (bytes.drop k) next))) := by
  have htake : (bytes.take k).length = k := List.length_take_of_le (Nat.le_of_lt more)
  conv => arg 1; rw [← List.take_append_drop k bytes]
  refine pushFront _ _ (by omega) (pushFull ?_ (List.ne_nil_of_length_pos (by rw [List.length_drop]; omega)))
  rw [List.length_append, htake]
  exact Nat.le_of_eq room.symm

/-- An empty TX takes as many bytes as it is deep (20_memory.md R70). -/
theorem pushFillEmpty {next : Micro} {bytes : List Byte} (htx : s.tx = [])
    (more : s.build.txFifoDepth < bytes.length) :
    QuietTo (s.busyAt i (.push bytes next))
      (State.busyAt { s with tx := bytes.take s.build.txFifoDepth } i
        (.wait (.push (bytes.drop s.build.txFifoDepth) next))) := by
  simpa [htx] using pushFill (s := s) (i := i) (next := next) (by simp [htx]) more

end QuietTo

/-- The end of a quiet run of a command issued in a quiet environment (10_state.md R36). -/
theorem exec_ready {i : Instr} {s t : State} (h : s.ready) (ht : QuietTo (s.busyAt i .start) t) :
    exec i s = .next t :=
  exec_of_quietTo i s t h.1 (quietInputs_cases _ _ h.2) ht

end Sys2Proof.Machine
end

section
/-! The serializer's moves while a command waits: what TX still holds and what has gone out (20_memory.md R70). -/

namespace Sys2Proof.Machine

/-- The state after the serializer has moved `k` times. -/
def State.emitted (s : State) (k : Nat) : State :=
  { s with tx := s.tx.drop k, history := s.history ++ (s.tx.take k).map (.wire s.dir) }

theorem State.emitted_zero (s : State) : s.emitted 0 = s := by simp [State.emitted]

theorem State.emitted_succ (s : State) (k : Nat) : s.emitted (k + 1) = s.emit.emitted k := by
  cases htx : s.tx with
  | nil => simp [State.emitted, State.emit_nil s htx, htx]
  | cons b bs => simp [State.emitted, State.emit_cons s htx, htx]

/-- Emissions entered in `inputs` are made one after the other, before what follows them. -/
theorem runInputs_emits (micro : Micro → State → State) (k : Nat) (rest : List Input) (s : State)
    (hb : s.phase ≠ .idle) :
    runInputs micro (List.replicate k .emit ++ rest) s = runInputs micro rest (s.emitted k) := by
  induction k generalizing s with
  | zero => rw [State.emitted_zero]; rfl
  | succ k ih =>
    rw [List.replicate_succ, List.cons_append, runInputs, if_neg hb, State.emitted_succ]
    exact ih s.emit (by simpa using hb)

/-- A command in progress, the serializer moving `k` times and then nobody else: it goes on, after the emissions, to its
next rest. -/
theorem step_emits {i : Instr} {μ : Micro} {s t : State} {k : Nat} {rest : List Input} (hp : s.phase = .busy i μ)
    (hi : s.inputs = List.replicate k .emit ++ rest) (hq : QuietInputs s.source rest)
    (ht : QuietTo { s.emitted k with inputs := rest } t) : step s = .next t := by
  rw [step_busy s i μ hp]
  rcases exec_cases i s with ⟨hidle, _⟩ | ⟨_, he⟩ | ⟨⟨j, ν, hj, hne⟩, _⟩
  · cases hp.symm.trans hidle
  · have hb : s.phase ≠ .idle := by simp [hp]
    have hquiet := quietInputs_cases _ _ hq
    rw [he, hi, runInputs_emits _ k rest s hb, runInputs_quiet i (s.emitted k) rest hquiet hb]
    exact congrArg _ (runQuiet_of_quietTo i _ t ht (.inr ⟨μ, hp⟩) _ (Nat.le_refl _))
  · cases hp.symm.trans hj
    exact absurd rfl hne

end Sys2Proof.Machine
end

section
/-! A command with more bytes than TX has room for: it fills TX and waits, and each emission lets it queue one more byte
(20_memory.md R70). -/

namespace Sys2Proof.Machine

/-- The serializer has moved `k` times, as many of the bytes `left` have taken the room, and `rest` is still to come. -/
def State.requeued (s : State) (k : Nat) (left : List Byte) (rest : List Input) : State :=
  { s.emitted k with tx := (s.emitted k).tx ++ left.take k, inputs := rest }

/-- A command that waits to push `left` into a full TX, the serializer emitting `k` bytes: it queues as many, and waits
again or, with all of them queued, goes on behind the push, to `u`. -/
theorem step_push_wait {i : Instr} {next : Micro} {s u : State} {k : Nat} {left : List Byte} {rest : List Input}
    (hp : s.phase = .busy i (.wait (.push left next))) (full : s.tx.length = s.build.txFifoDepth)
    (hk : k ≤ s.tx.length) (hi : s.inputs = List.replicate k .emit ++ rest) (hq : QuietInputs s.source rest)
    (hnext : ∀ back, next ≠ .wait back)
    (hu : QuietTo ((s.requeued k left rest).busyAt i next) u) :
    step s = .next
      (if left.length ≤ k then u else (s.requeued k left rest).busyAt i (.wait (.push (left.drop k) next))) := by
  refine step_emits hp hi hq ?_
  rw [← State.busyAt_of_phase (s := { s.emitted k with inputs := rest }) hp]
  refine .wait nofun ?_
  have room : (s.tx.drop k).length + k = s.build.txFifoDepth := by rw [List.length_drop]; omega
  split
  · rename_i hall
    rw [State.requeued, List.take_of_length_le hall] at hu
    exact .pushAll left (Nat.le_trans (Nat.add_le_add_left hall _) (Nat.le_of_eq room)) hnext hu
  · exact .pushFill room (by omega)

/-- SEND_REQ, with nothing that holds it before its transmission, has recorded its request when it comes to push its
bytes (43_transport.md R186). -/
theorem quietTo_sendReq_of_push {s t : State} {flags : Byte} {bytes : List Byte} (htx : s.tx = [])
    (hconn : s.connected = true) (hid : s.pendingId = 0) (hvalid : badRequest s.build flags bytes = false)
    (hspaced : s.mustSpace = false)
    (ht : QuietTo
      (State.busyAt
        { s.onSide .toDevice with pendingId := requestId flags bytes, expectedLen := 0, matched := false }
        (.sendReq flags bytes) (.push bytes .stampTime)) t) :
    QuietTo (s.busyAt (.sendReq flags bytes) .start) t := by
  refine .goAt (u := s) (ν := .sendBusy) (if_pos hconn) nofun ?_
  refine .goAt (u := s) (ν := .sendParam) (if_neg (not_not.mpr hid)) nofun ?_
  refine .goAt (u := s) (ν := switchTo .toDevice .spacing) (if_neg (Bool.eq_false_iff.mp hvalid)) nofun ?_
  refine .switch htx nofun ?_
  refine .goAt (u := s.onSide .toDevice) (ν := .setPending) (if_neg (Bool.eq_false_iff.mp hspaced)) nofun ?_
  exact .goAt rfl nofun (.goAt rfl nofun (.goAt rfl nofun ht))

/-- SEND_REQ's Param test passes a request of 1 to MAX_REQUEST_LEN bytes with the reserved flags clear (43_transport.md
R186). -/
theorem badRequest_eq_false {b : Build} {flags : Byte} {bytes : List Byte} (hflags : flags.extractLsb' 1 7 = 0)
    (hpos : 0 < bytes.length) (hlen : bytes.length ≤ b.maxRequestLen) : badRequest b flags bytes = false := by
  refine decide_eq_false ?_
  rintro (hbad | hbad | hbad)
  · exact hbad hflags
  · omega
  · omega

theorem State.mustSpace_eq_false {s : State} (h : s.lastSendValid = true → s.reqDelayMs ≤ s.now - s.lastSend) :
    s.mustSpace = false := by
  cases hv : s.lastSendValid with
  | false => simp [State.mustSpace, hv]
  | true => simpa [State.mustSpace, hv] using h hv

/-- Settles O18: `QuietTo.pushFill` behind each command's own statements, and `step_push_wait` before those that follow
its push. -/
theorem transmissionWaitsForRoom : Obligations.TransmissionWaitsForRoom := by
  refine ⟨fun s bytes hready htx more =>
      ⟨?conWriteFills, ?sessionInitFills, fun flags hconn hid hflags hlen hspaced => ?sendReqFills⟩,
    fun s k left bytes rest full hk hi hq =>
      ⟨fun hp => ?conWriteGoesOn, fun hp => ?sessionInitGoesOn, fun flags hp => ?sendReqGoesOn⟩⟩
  case conWriteFills => exact exec_ready hready (.goAt rfl nofun (.switch htx nofun (.pushFillEmpty htx more)))
  case sessionInitFills => exact exec_ready hready (.goAt rfl nofun (.switch htx nofun (.pushFillEmpty htx more)))
  case sendReqFills =>
    have hvalid := badRequest_eq_false hflags (Nat.zero_lt_of_lt more) hlen
    have hnospacing := State.mustSpace_eq_false hspaced
    exact exec_ready hready (quietTo_sendReq_of_push htx hconn hid hvalid hnospacing (.pushFillEmpty htx more))
  case conWriteGoesOn => exact step_push_wait hp full hk hi hq nofun (.finish _ _)
  case sessionInitGoesOn => exact step_push_wait hp full hk hi hq nofun (.goAt rfl nofun (.finish _ _))
  case sendReqGoesOn =>
    exact step_push_wait hp full hk hi hq nofun (.goAt rfl nofun (.goAt rfl nofun (.finish _ _)))

end Sys2Proof.Machine
end

section
/-! What the reader of each format answers: a command and the bytes behind it exactly where the bytes are the format's
fields, a list behind a count that holds its length (30_encoding.md R98, R99). -/

namespace Sys2Proof

variable {bs rest : List Byte} {i : Instr}

/-- A count field holds every count below its range (R98). -/
theorem toNat_ofNat_of_lt {w n : Nat} (h : n < 2 ^ w) : (BitVec.ofNat w n).toNat = n := Nat.mod_eq_of_lt h

theorem readF0_eq_ok {j : Instr} : readF0 j bs = .ok (i, rest) ↔ j = i ∧ bs = rest := by
  simp [readF0]

theorem readF1_eq_ok {mk : Byte → Instr} : readF1 mk bs = .ok (i, rest) ↔ ∃ a, mk a = i ∧ bs = a :: rest := by
  cases bs <;> simp [readF1]

theorem readF2_eq_ok {mk : Byte → Byte → Instr} :
    readF2 mk bs = .ok (i, rest) ↔ ∃ a b, mk a b = i ∧ bs = a :: b :: rest := by
  match bs with
  | [] | [_] => simp [readF2]
  | a :: b :: bs => simp [readF2]

theorem readList_eq_ok {mk : List Byte → Instr} {n : Nat} :
    readList mk n bs = .ok (i, rest) ↔ ∃ d, d.length = n ∧ mk d = i ∧ bs = d ++ rest := by
  constructor
  · intro h
    unfold readList at h
    split at h
    · next d behind htake =>
      obtain ⟨hlen, hbs⟩ := takeExact_some n bs d behind htake
      cases h
      exact ⟨d, hlen, rfl, hbs⟩
    · cases h
  · rintro ⟨d, rfl, rfl, rfl⟩
    rw [readList, takeExact_append]

theorem readFS_eq_ok {mk : List Byte → Instr} :
    readFS mk bs = .ok (i, rest) ↔
      ∃ d, d.length ≤ 255 ∧ mk d = i ∧ bs = BitVec.ofNat 8 d.length :: (d ++ rest) := by
  constructor
  · intro h
    cases bs with
    | nil => cases h
    | cons n bs =>
      obtain ⟨d, hlen, hmk, rfl⟩ := readList_eq_ok.mp h
      exact ⟨d, hlen ▸ Nat.le_of_lt_succ n.isLt, hmk, by rw [hlen, BitVec.ofNat_toNat, BitVec.setWidth_eq]⟩
  · rintro ⟨d, hlen, hmk, rfl⟩
    exact readList_eq_ok.mpr ⟨d, (toNat_ofNat_of_lt (Nat.lt_succ_of_le hlen)).symm, hmk, rfl⟩

/-- Format FR is flags and a record of format FS behind them. -/
theorem readFR_cons (mk : Byte → List Byte → Instr) (flags : Byte) (bs : List Byte) :
    readFR mk (flags :: bs) = readFS (mk flags) bs := by
  cases bs <;> rfl

theorem readFR_eq_ok {mk : Byte → List Byte → Instr} :
    readFR mk bs = .ok (i, rest) ↔
      ∃ flags d, d.length ≤ 255 ∧ mk flags d = i ∧ bs = flags :: BitVec.ofNat 8 d.length :: (d ++ rest) := by
  cases bs with
  | nil => simp [readFR]
  | cons flags bs => simp [readFR_cons, readFS_eq_ok]

theorem readFW_be16Bytes (mk : List Byte → Instr) (n : BitVec 16) (bs : List Byte) :
    readFW mk (be16Bytes n ++ bs) = readList mk n.toNat bs :=
  congrArg (fun v : BitVec 16 => readList mk v.toNat bs) (be16_extract n)

theorem readFW_eq_ok {mk : List Byte → Instr} :
    readFW mk bs = .ok (i, rest) ↔
      ∃ d, d.length ≤ 65535 ∧ mk d = i ∧ bs = be16Bytes (BitVec.ofNat 16 d.length) ++ (d ++ rest) := by
  constructor
  · intro h
    match bs with
    | [] | [_] => cases h
    | n1 :: n0 :: bs =>
      obtain ⟨d, hlen, hmk, rfl⟩ := readList_eq_ok.mp h
      exact ⟨d, hlen ▸ Nat.le_of_lt_succ (be16 n1 n0).isLt, hmk, by
        rw [hlen, BitVec.ofNat_toNat, BitVec.setWidth_eq, be16Bytes_be16]; rfl⟩
  · rintro ⟨d, hlen, hmk, rfl⟩
    rw [readFW_be16Bytes, toNat_ofNat_of_lt (Nat.lt_succ_of_le hlen)]
    exact readList_eq_ok.mpr ⟨d, rfl, hmk, rfl⟩

theorem readF16_eq_ok {mk : BitVec 16 → Instr} :
    readF16 mk bs = .ok (i, rest) ↔ ∃ v, mk v = i ∧ bs = be16Bytes v ++ rest := by
  constructor
  · intro h
    match bs with
    | [] | [_] => cases h
    | b1 :: b0 :: bs =>
      cases h
      exact ⟨be16 b1 b0, rfl, by rw [be16Bytes_be16]; rfl⟩
  · rintro ⟨v, rfl, rfl⟩
    exact congrArg (fun v => Except.ok (mk v, rest)) (be16_extract v)

theorem readFIV_eq_ok {mk : CfgIndex → CfgWord → Instr} :
    readFIV mk bs = .ok (i, rest) ↔ ∃ idx v, mk idx v = i ∧ bs = be16Bytes idx ++ be32Bytes v ++ rest := by
  constructor
  · intro h
    match bs with
    | [] | [_] | [_, _] | [_, _, _] | [_, _, _, _] | [_, _, _, _, _] => cases h
    | i1 :: i0 :: v3 :: v2 :: v1 :: v0 :: bs =>
      cases h
      exact ⟨be16 i1 i0, be32 v3 v2 v1 v0, rfl, by rw [be16Bytes_be16, be32Bytes_be32]; rfl⟩
  · rintro ⟨idx, v, rfl, rfl⟩
    exact congrArg₂ (fun idx v => Except.ok (mk idx v, rest)) (be16_extract idx) (be32_extract v)

end Sys2Proof
end

section
/-! The decoder reads exactly the serializations of the well-formed commands (30_encoding.md R98, R101, R104). -/

namespace Sys2Proof

@[simp] theorem Instr.wellFormed_conWrite (d : List Byte) : (Instr.conWrite d).wellFormed = true ↔ d.length ≤ 65535 :=
  decide_eq_true_iff

@[simp] theorem Instr.wellFormed_sessionInit (d : List Byte) :
    (Instr.sessionInit d).wellFormed = true ↔ d.length ≤ 255 := decide_eq_true_iff

@[simp] theorem Instr.wellFormed_sendReq (flags : Byte) (d : List Byte) :
    (Instr.sendReq flags d).wellFormed = true ↔ d.length ≤ 255 := decide_eq_true_iff

/-- The serialization of a well-formed command, whatever is behind it, is read as that command. -/
theorem decodeHead_encode_append {i : Instr} (hwf : i.wellFormed = true) (rest : List Byte) :
    decodeHead (encode i ++ rest) = .ok (i, rest) := by
  cases i with
  | decNibble | encByte => exact readF1_eq_ok.mpr ⟨_, rfl, rfl⟩
  | decByte => exact readF2_eq_ok.mpr ⟨_, _, rfl, rfl⟩
  | busDev | busCon | busDir | popNotif | ringAvail => exact readF0_eq_ok.mpr ⟨rfl, rfl⟩
  | conWrite d => exact readFW_eq_ok.mpr ⟨d, (Instr.wellFormed_conWrite d).mp hwf, rfl, rfl⟩
  | sessionInit d => exact readFS_eq_ok.mpr ⟨d, (Instr.wellFormed_sessionInit d).mp hwf, rfl, rfl⟩
  | sendReq flags d => exact readFR_eq_ok.mpr ⟨flags, d, (Instr.wellFormed_sendReq flags d).mp hwf, rfl, rfl⟩
  | getResp | cfgRead => exact readF16_eq_ok.mpr ⟨_, rfl, rfl⟩
  | cfgWrite => exact readFIV_eq_ok.mpr ⟨_, _, rfl, rfl⟩

theorem cons_eq_encode_append {op : Byte} {i : Instr} {bs rest : List Byte} (hop : op.toNat = i.opcode.toNat)
    (hbs : bs = i.operandBytes ++ rest) : op :: bs = encode i ++ rest := by
  rw [BitVec.eq_of_toNat_eq hop, hbs]
  rfl

/-- What the decoder reads is a well-formed command's serialization, and the bytes behind it. -/
theorem eq_encode_of_decodeHead {bs rest : List Byte} {i : Instr} (h : decodeHead bs = .ok (i, rest)) :
    i.wellFormed = true ∧ bs = encode i ++ rest := by
  cases bs with
  | nil => cases h
  | cons op bs =>
    dsimp only [decodeHead] at h
    split at h
    case h_1 hop | h_3 hop =>
      obtain ⟨_, rfl, rfl⟩ := readF1_eq_ok.mp h
      exact ⟨rfl, cons_eq_encode_append hop rfl⟩
    case h_2 hop =>
      obtain ⟨_, _, rfl, rfl⟩ := readF2_eq_ok.mp h
      exact ⟨rfl, cons_eq_encode_append hop rfl⟩
    case h_4 hop | h_5 hop | h_6 hop | h_11 hop | h_12 hop =>
      obtain ⟨rfl, rfl⟩ := readF0_eq_ok.mp h
      exact ⟨rfl, cons_eq_encode_append hop rfl⟩
    case h_7 hop =>
      obtain ⟨d, hlen, rfl, rfl⟩ := readFW_eq_ok.mp h
      exact ⟨(Instr.wellFormed_conWrite d).mpr hlen, cons_eq_encode_append hop rfl⟩
    case h_8 hop =>
      obtain ⟨d, hlen, rfl, rfl⟩ := readFS_eq_ok.mp h
      exact ⟨(Instr.wellFormed_sessionInit d).mpr hlen, cons_eq_encode_append hop rfl⟩
    case h_9 hop =>
      obtain ⟨flags, d, hlen, rfl, rfl⟩ := readFR_eq_ok.mp h
      exact ⟨(Instr.wellFormed_sendReq flags d).mpr hlen, cons_eq_encode_append hop rfl⟩
    case h_10 hop | h_13 hop =>
      obtain ⟨_, rfl, rfl⟩ := readF16_eq_ok.mp h
      exact ⟨rfl, cons_eq_encode_append hop rfl⟩
    case h_14 hop =>
      obtain ⟨_, _, rfl, rfl⟩ := readFIV_eq_ok.mp h
      exact ⟨rfl, cons_eq_encode_append hop rfl⟩
    case h_15 => cases h

/-- A record decodes where the command at its head leaves nothing behind it. -/
theorem decode_eq_ok_iff_decodeHead {bs : List Byte} {i : Instr} : decode bs = .ok i ↔ decodeHead bs = .ok (i, []) := by
  unfold decode
  split
  · next j hhead => simp [hhead]
  · next j b behind hhead => simp [hhead]
  · next e hhead => simp [hhead]

/-- Settles O1. -/
theorem decodeOfEncode : Obligations.DecodeOfEncode := by
  intro i hwf
  rw [decode_eq_ok_iff_decodeHead]
  simpa using decodeHead_encode_append hwf []

/-- Settles O2. -/
theorem encodeOfDecode : Obligations.EncodeOfDecode := by
  intro bs i h
  obtain ⟨hwf, hbs⟩ := eq_encode_of_decodeHead (decode_eq_ok_iff_decodeHead.mp h)
  exact ⟨hwf, by simpa using hbs.symm⟩

/-- Settles O4: the count field of the three list formats gives the list's length back. -/
theorem recordLengthIsFoundFromItsHead : Obligations.RecordLengthIsFoundFromItsHead := by
  intro i rest hwf
  cases i with
  | conWrite d =>
    have hlen := (Instr.wellFormed_conWrite d).mp hwf
    have hcount : recordLength (encode (.conWrite d) ++ rest) = some (3 + (BitVec.ofNat 16 d.length).toNat) :=
      congrArg (fun n : BitVec 16 => some (3 + n.toNat)) (be16_extract _)
    rw [hcount, toNat_ofNat_of_lt (Nat.lt_succ_of_le hlen)]
    simp [encode, Instr.operandBytes, be16Bytes]; omega
  | sessionInit d =>
    have hlen := (Instr.wellFormed_sessionInit d).mp hwf
    have hcount : recordLength (encode (.sessionInit d) ++ rest) = some (2 + (BitVec.ofNat 8 d.length).toNat) := rfl
    rw [hcount, toNat_ofNat_of_lt (Nat.lt_succ_of_le hlen)]
    simp [encode, Instr.operandBytes]; omega
  | sendReq flags d =>
    have hlen := (Instr.wellFormed_sendReq flags d).mp hwf
    have hcount : recordLength (encode (.sendReq flags d) ++ rest) = some (3 + (BitVec.ofNat 8 d.length).toNat) := rfl
    rw [hcount, toNat_ofNat_of_lt (Nat.lt_succ_of_le hlen)]
    simp [encode, Instr.operandBytes]; omega
  | _ => rfl

/-- Settles O5: each record is the serialization of its command, which `decodeOfEncode` reads back. -/
theorem writtenOutRecordsDecode : Obligations.WrittenOutRecordsDecode :=
  ⟨decodeOfEncode (.decByte 0x34 0x44) rfl,
    decodeOfEncode (.conWrite [0x6F, 0x6B]) rfl,
    decodeOfEncode (.sendReq 0x01 [0x79, 0x01]) rfl,
    decodeOfEncode (.getResp 0x0103) rfl,
    decodeOfEncode (.cfgWrite 0x0001 0x000003E8) rfl⟩

end Sys2Proof
end

section
/-! The opcodes R101 of 30_encoding.md does not list (R102): which they are, and what the host's record of one does
(60_exceptions.md R263). -/

namespace Sys2Proof.Machine

open Laws

/-- The opcodes R102 calls illegal. -/
def UnassignedOpcode (op : Byte) : Prop :=
  op = 0x00 ∨ (0x04 ≤ op ∧ op ≤ 0x0F) ∨ (0x14 ≤ op ∧ op ≤ 0x1F) ∨ (0x25 ≤ op ∧ op ≤ 0x2F) ∨ 0x32 ≤ op

/-- Every opcode is a command's, with `AssignedOpcode` said of it, or the decoder calls it illegal. -/
theorem opcode_assigned_or_illegal (op : Byte) (rest : List Byte) :
    (∃ i : Instr, op = i.opcode ∧ AssignedOpcode.Statement i) ∨
      (UnassignedOpcode op ∧ decodeHead (op :: rest) = .error (.illegalOpcode op)) := by
  dsimp only [decodeHead]
  split
  case h_1 hop => exact .inl ⟨.decNibble 0, BitVec.eq_of_toNat_eq hop, AssignedOpcode.decNibble 0⟩
  case h_2 hop => exact .inl ⟨.decByte 0 0, BitVec.eq_of_toNat_eq hop, AssignedOpcode.decByte 0 0⟩
  case h_3 hop => exact .inl ⟨.encByte 0, BitVec.eq_of_toNat_eq hop, AssignedOpcode.encByte 0⟩
  case h_4 hop => exact .inl ⟨.busDev, BitVec.eq_of_toNat_eq hop, AssignedOpcode.busDev⟩
  case h_5 hop => exact .inl ⟨.busCon, BitVec.eq_of_toNat_eq hop, AssignedOpcode.busCon⟩
  case h_6 hop => exact .inl ⟨.busDir, BitVec.eq_of_toNat_eq hop, AssignedOpcode.busDir⟩
  case h_7 hop => exact .inl ⟨.conWrite [], BitVec.eq_of_toNat_eq hop, AssignedOpcode.conWrite []⟩
  case h_8 hop => exact .inl ⟨.sessionInit [], BitVec.eq_of_toNat_eq hop, AssignedOpcode.sessionInit []⟩
  case h_9 hop => exact .inl ⟨.sendReq 0 [], BitVec.eq_of_toNat_eq hop, AssignedOpcode.sendReq 0 []⟩
  case h_10 hop => exact .inl ⟨.getResp 0, BitVec.eq_of_toNat_eq hop, AssignedOpcode.getResp 0⟩
  case h_11 hop => exact .inl ⟨.popNotif, BitVec.eq_of_toNat_eq hop, AssignedOpcode.popNotif⟩
  case h_12 hop => exact .inl ⟨.ringAvail, BitVec.eq_of_toNat_eq hop, AssignedOpcode.ringAvail⟩
  case h_13 hop => exact .inl ⟨.cfgRead 0, BitVec.eq_of_toNat_eq hop, AssignedOpcode.cfgRead 0⟩
  case h_14 hop => exact .inl ⟨.cfgWrite 0 0, BitVec.eq_of_toNat_eq hop, AssignedOpcode.cfgWrite 0 0⟩
  case h_15 =>
    refine .inr ⟨?_, rfl⟩
    simp only [UnassignedOpcode, ← BitVec.toNat_inj, BitVec.le_def, BitVec.reduceToNat]
    simp only [imp_false] at *
    omega

theorem not_unassignedOpcode (i : Instr) : ¬ UnassignedOpcode i.opcode := by
  cases i <;> simp [UnassignedOpcode, Instr.opcode]

theorem decode_eq_illegal_iff (op : Byte) (rest : List Byte) :
    decode (op :: rest) = .error (.illegalOpcode op) ↔ UnassignedOpcode op := by
  rcases opcode_assigned_or_illegal op rest with ⟨i, rfl, hassigned⟩ | ⟨hunassigned, hhead⟩
  · exact iff_of_false (hassigned rest i.opcode) (not_unassignedOpcode i)
  · exact iff_of_true (by rw [decode, hhead]) hunassigned

theorem State.raise_eq_answered (s : State) (st : Status) : s.raise st = s.answered st [] := rfl

/-- The host's record of an illegal opcode completes in the move that issues it (log entry 20). -/
theorem step_illegal {s : State} {bytes : List Byte} {more : List Input} {op : Byte} (hp : s.phase = .idle)
    (hi : s.inputs = .command bytes :: more) (hd : decode bytes = .error (.illegalOpcode op)) :
    step s = .next ({ s with inputs := more }.raise .illegalOp) := by
  simp [step, fetch, fetchRecord, hp, hi, hd]

/-- Settles O3. -/
theorem illegalOpcodesCompleteWithIllegalOp : Obligations.IllegalOpcodesCompleteWithIllegalOp := by
  intro op rest
  refine ⟨decode_eq_illegal_iff op rest, fun s more hp hi hunassigned => ?_⟩
  rw [step_illegal hp hi ((decode_eq_illegal_iff op rest).mpr hunassigned), State.raise_eq_answered]

end Sys2Proof.Machine
end

section
/-! The nibble decoder, one rule per row of its table (30_encoding.md R91). -/

namespace Sys2Proof.Machine

variable {x : Byte}

theorem hexval_decimal (h : 0x30 ≤ x ∧ x ≤ 0x39) : hexval x = (x - 0x30).setWidth 4 := if_pos h

theorem hexval_upper (h : 0x41 ≤ x ∧ x ≤ 0x46) : hexval x = (x - 0x37).setWidth 4 := by
  have hdecimal : ¬(0x30 ≤ x ∧ x ≤ 0x39) := by bv_omega
  rw [hexval, if_neg hdecimal, if_pos h]

theorem hexval_lower (h : 0x61 ≤ x ∧ x ≤ 0x66) : hexval x = (x - 0x57).setWidth 4 := by
  have hdecimal : ¬(0x30 ≤ x ∧ x ≤ 0x39) := by bv_omega
  have hupper : ¬(0x41 ≤ x ∧ x ≤ 0x46) := by bv_omega
  rw [hexval, if_neg hdecimal, if_neg hupper, if_pos h]

theorem hexval_other (hdecimal : ¬(0x30 ≤ x ∧ x ≤ 0x39)) (hupper : ¬(0x41 ≤ x ∧ x ≤ 0x46))
    (hlower : ¬(0x61 ≤ x ∧ x ≤ 0x66)) : hexval x = 0 := by
  rw [hexval, if_neg hdecimal, if_neg hupper, if_neg hlower]

/-- A digit's distance from the base of its row fits a nibble. -/
theorem toNat_setWidth_sub {base : Byte} (hbase : base ≤ x) (hdigit : x.toNat - base.toNat < 16) :
    ((x - base).setWidth 4).toNat = x.toNat - base.toNat := by
  rw [BitVec.toNat_setWidth, BitVec.toNat_sub_of_le hbase, Nat.mod_eq_of_lt hdigit]

/-- Settles O8. -/
theorem hexvalFollowsItsTable : Obligations.HexvalFollowsItsTable := by
  intro x
  refine ⟨fun h => ?decimal, fun h => ?upper, fun h => ?lower, fun ⟨hdecimal, hupper, hlower⟩ => ?other⟩
  case decimal => rw [hexval_decimal h]; exact toNat_setWidth_sub (by bv_omega) (by bv_omega)
  case upper => rw [hexval_upper h]; exact toNat_setWidth_sub (by bv_omega) (by bv_omega)
  case lower => rw [hexval_lower h]; exact toNat_setWidth_sub (by bv_omega) (by bv_omega)
  case other => exact hexval_other hdecimal hupper hlower

end Sys2Proof.Machine
end

section
/-! What a line of the assembler stands for, from its tokens (30_encoding.md R105, R106). -/

namespace Sys2Proof.Machine

variable {line w : List Char} {ts : List Token}

theorem assembleLine_command {i : Instr} (hlex : lexLine (.plain []) line = some (.word w :: ts))
    (hw : w ≠ "XFER".toList) (hi : assembleCommand w ts = some i) (hwf : i.wellFormed = true) :
    assembleLine line = some [i] := by
  simp only [assembleLine, hlex, if_neg hw, hi]
  simp [hwf]

theorem assembleLine_xfer {is : List Instr} (hlex : lexLine (.plain []) line = some (.word "XFER".toList :: ts))
    (his : xferOperands ts = some is) (hwf : is.all Instr.wellFormed = true) : assembleLine line = some is := by
  simp only [assembleLine, hlex, his, if_true, Option.filter_some, hwf]

theorem assembleLine_none (hlex : lexLine (.plain []) line = some (.word w :: ts)) (hw : w ≠ "XFER".toList)
    (hnone : assembleCommand w ts = none) : assembleLine line = none := by
  simp only [assembleLine, hlex, if_neg hw, hnone]
  rfl

/-- Settles O7: the tokens of each line, and the command of its mnemonic over their operands. -/
theorem assemblerReadsItsForms : Obligations.AssemblerReadsItsForms := by
  refine ⟨?decNibble, ?decByte, ?conWrite, ?sessionInit, ?sendReq, ?getResp, ?cfgRead, ?cfgWrite, ?xfer, ?tooLarge⟩
  case decNibble =>
    exact assembleLine_command (w := "DEC_NIBBLE".toList) (ts := [.number 0x34]) rfl (by decide) rfl rfl
  case decByte =>
    exact assembleLine_command (w := "DEC_BYTE".toList) (ts := [.number 0x34, .comma, .number 0x44]) rfl (by decide)
      rfl rfl
  case conWrite =>
    exact assembleLine_command (w := "CON_WRITE".toList) (ts := [.text [0x6F, 0x6B]]) rfl (by decide) rfl rfl
  case sessionInit =>
    exact assembleLine_command (w := "SESSION_INIT".toList) (ts := [.openBracket, .closeBracket]) rfl (by decide)
      rfl rfl
  case sendReq =>
    exact assembleLine_command (w := "SEND_REQ".toList)
      (ts := [.word "noexpect".toList, .comma, .openBracket, .number 0x79, .comma, .number 1, .closeBracket])
      rfl (by decide) rfl rfl
  case getResp =>
    exact assembleLine_command (w := "GET_RESP".toList) (ts := [.number 259]) rfl (by decide) rfl rfl
  case cfgRead =>
    exact assembleLine_command (w := "CFG_READ".toList)
      (ts := [.word "OOB_LEN".toList, .openBracket, .number 0x0A, .closeBracket]) rfl (by decide) rfl rfl
  case cfgWrite =>
    exact assembleLine_command (w := "CFG_WRITE".toList)
      (ts := [.word "RESP_TIMEOUT_MS".toList, .comma, .number 500]) rfl (by decide) rfl rfl
  case xfer =>
    exact assembleLine_xfer (ts := [.openBracket, .number 0x79, .closeBracket, .comma, .number 3]) rfl rfl rfl
  case tooLarge =>
    exact assembleLine_none (w := "GET_RESP".toList) (ts := [.number 65536]) rfl (by decide) rfl

end Sys2Proof.Machine
end

section
/-! The hex characters of a nibble and of a byte, and what they decode to (40_codec.md R125). -/

namespace Sys2Proof.Machine

variable {n : Nibble}

theorem hexchar_decimal (h : n.toNat ≤ 9) : hexchar n = 0x30 + n.setWidth 8 := if_pos h

theorem hexchar_upper (h : 10 ≤ n.toNat) : hexchar n = 0x37 + n.setWidth 8 := if_neg (Nat.not_le_of_lt h)

/-- A row's base and a nibble add up without a carry out of the byte. -/
theorem toNat_add_setWidth {base : Byte} (hbase : base.toNat + 16 ≤ 256) :
    (base + n.setWidth 8).toNat = base.toNat + n.toNat := by
  bv_omega

/-- The decoder takes off the base that the encoder put on. -/
theorem setWidth_add_setWidth_sub (base : Byte) (n : Nibble) : (base + n.setWidth 8 - base).setWidth 4 = n := by
  rw [BitVec.add_comm, BitVec.add_sub_cancel, BitVec.setWidth_setWidth_of_le n (by decide), BitVec.setWidth_eq]

@[simp] theorem hexval_hexchar (n : Nibble) : hexval (hexchar n) = n := by
  rcases Nat.lt_or_ge n.toNat 10 with h | h
  · have hrow : 0x30 ≤ 0x30 + n.setWidth 8 ∧ 0x30 + n.setWidth 8 ≤ 0x39 := by bv_omega
    rw [hexchar_decimal (Nat.le_of_lt_succ h), hexval_decimal hrow, setWidth_add_setWidth_sub]
  · have hrow : 0x41 ≤ 0x37 + n.setWidth 8 ∧ 0x37 + n.setWidth 8 ≤ 0x46 := by bv_omega
    rw [hexchar_upper h, hexval_upper hrow, setWidth_add_setWidth_sub]

theorem pair_hexchar (n m : Nibble) : pair (hexchar n) (hexchar m) = n ++ m := by
  rw [pair_eq_append, hexval_hexchar, hexval_hexchar]

theorem nibbles_append (b : Byte) : b.extractLsb' 4 4 ++ b.extractLsb' 0 4 = b :=
  (BitVec.extractLsb'_append_extractLsb'_eq_extractLsb' rfl).trans BitVec.extractLsb'_eq_self

/-- Settles O10. -/
theorem hexEncodingRoundTrips : Obligations.HexEncodingRoundTrips := by
  refine ⟨fun n => ⟨fun h => ?decimal, fun h => ?upper⟩, hexval_hexchar, fun b => ⟨_, _, rfl, rfl, rfl, ?byte⟩⟩
  case decimal => rw [hexchar_decimal h]; exact toNat_add_setWidth (by decide)
  case upper => rw [hexchar_upper h]; exact toNat_add_setWidth (by decide)
  case byte => rw [pair_hexchar, nibbles_append]

end Sys2Proof.Machine
end

section
/-! The commands that answer in their first micro-step, as the codec's do (40_codec.md R120, R122, R124). -/

namespace Sys2Proof.Machine

/-- A micro-step that finishes the command ends its quiet run. -/
theorem QuietTo.finishAt {s : State} {i : Instr} {μ : Micro} {st : Status} {data : List Byte}
    (h : microOf i μ (s.busyAt i μ) = (s.busyAt i μ).finish st data) :
    QuietTo (s.busyAt i μ) (s.answered st data) := by
  have hstep : seqStep (s.busyAt i μ) = s.answered st data := h
  exact hstep ▸ .rest _ (hstep ▸ rfl)

/-- A command whose first micro-step finishes changes nothing but RESULT. -/
theorem exec_finish {s : State} {i : Instr} {st : Status} {data : List Byte} (hready : s.ready)
    (h : microOf i .start (s.busyAt i .start) = (s.busyAt i .start).finish st data) :
    exec i s = .next (s.answered st data) :=
  exec_ready hready (.finishAt h)

/-- Settles O11: each record is its command's serialization, and each command finishes in its first micro-step. -/
theorem codecCommandsAnswer : Obligations.CodecCommandsAnswer := by
  refine ⟨fun ch => ?readNibble, fun hi lo => ?readByte, fun b => ?readEncByte,
    fun s hready => ⟨fun ch => ?decNibble, fun hi lo => ?decByte, fun b => ?encByte⟩⟩
  case readNibble => exact decodeOfEncode (.decNibble ch) rfl
  case readByte => exact decodeOfEncode (.decByte hi lo) rfl
  case readEncByte => exact decodeOfEncode (.encByte b) rfl
  case decNibble => exact exec_finish hready rfl
  case decByte => exact exec_finish hready rfl
  case encByte => exact exec_finish hready rfl

end Sys2Proof.Machine
end

section
/-! RING_AVAIL (41_ring.md R142), and the ring as the list of its frames, oldest first: a push appends and a pop takes
the head (41_ring.md R140, R141, R144). -/

namespace Sys2Proof.Machine

/-- Settles O42: RING_AVAIL finishes in its first micro-step. -/
theorem ringAvailAnswersTheCount : Obligations.RingAvailAnswersTheCount :=
  ⟨decodeOfEncode .ringAvail rfl, fun _ hready => exec_finish hready rfl⟩

namespace Ring

variable {c : Nat} {r : Ring}

@[simp] theorem frames_length (c : Nat) (r : Ring) : (r.frames c).length = r.count := by simp [frames]

theorem frames_of_count_eq_zero (h : r.count = 0) : r.frames c = [] :=
  List.eq_nil_of_length_eq_zero ((frames_length c r).trans h)

/-- The frame at RD, then those behind it. -/
theorem frames_of_count_eq_succ {n : Nat} (h : r.count = n + 1) :
    r.frames c = (r.slot (r.rd % c)).frame ::
      (List.range n).map (fun k => (r.slot ((r.rd + (k + 1)) % c)).frame) := by
  rw [frames, h, List.range_succ_eq_map, List.map_cons, List.map_map]
  rfl

theorem oldest_eq_head? (hrd : r.rd < c) : r.oldest = (r.frames c).head? := by
  rcases r.oldest_cases with ⟨hempty, ho⟩ | ⟨hne, ho⟩
  · rw [ho, frames_of_count_eq_zero hempty, List.head?_nil]
  · obtain ⟨n, hn⟩ := Nat.exists_eq_succ_of_ne_zero hne
    rw [ho, frames_of_count_eq_succ hn, List.head?_cons, Nat.mod_eq_of_lt hrd]

theorem frames_dropOldest (c : Nat) (r : Ring) : (r.dropOldest c).frames c = (r.frames c).drop 1 := by
  rcases r.dropOldest_rd_count c with ⟨hempty, he⟩ | ⟨hne, hrd', hcount'⟩
  · rw [he, frames_of_count_eq_zero hempty, List.drop_nil]
  · obtain ⟨n, hn⟩ := Nat.exists_eq_succ_of_ne_zero hne
    rw [frames_of_count_eq_succ hn, List.drop_one, List.tail_cons, frames, hcount', hn, Nat.succ_sub_one]
    refine List.map_congr_left fun k _ => ?_
    rw [hrd', Nat.mod_add_mod, Nat.add_assoc, Nat.add_comm 1 k, slot, slot, dropOldest_slots]

theorem dropOldest_count (c : Nat) (r : Ring) : (r.dropOldest c).count = r.count - 1 := by
  rcases r.dropOldest_rd_count c with ⟨hempty, he⟩ | ⟨-, -, hcount'⟩
  · rw [he, hempty]
  · exact hcount'

/-- A push into a full ring is a pop and then a push into a ring with room. -/
theorem push_of_full (f : List Byte) (hfull : r.count = c) (hc : 0 < c) : r.push c f = (r.dropOldest c).push c f := by
  have hroom : r.makeRoom c = r.dropOldest c := by
    rw [makeRoom, dropOldest, if_pos hfull, if_neg (by omega)]
  have hdone : (r.dropOldest c).makeRoom c = r.dropOldest c := by
    rw [makeRoom, dropOldest_count, if_neg (by omega)]
  rw [push, push, hroom, hdone]

theorem slot_mem {j : Nat} (hj : j < r.slots.length) : r.slot j ∈ r.slots := by
  rw [slot, List.getD_eq_getElem _ _ hj]
  exact List.getElem_mem hj

/-- SLOT[WR] is none of the slots that hold a frame, as long as the ring has room. -/
theorem wr_ne_held (h : r.indexed c) (hroom : r.count < c) {k : Nat} (hk : k < r.count) : r.wr ≠ (r.rd + k) % c := by
  intro he
  have hcongr : r.count ≡ k [MOD c] := Nat.ModEq.add_left_cancel' r.rd (h.2.2.symm.trans he)
  exact absurd (hcongr.eq_of_lt_of_lt hroom (hk.trans hroom)) hk.ne'

theorem frames_push_of_room {f : List Byte} (h : r.indexed c) (hsize : r.slots.length = c) (hroom : r.count < c)
    (hf : ∀ t ∈ r.slots, f.length ≤ t.fb.length) : (r.push c f).frames c = r.frames c ++ [f] := by
  rcases r.push_rd_count c f with ⟨hfull, -, -⟩ | ⟨-, hrd', hcount'⟩
  · exact absurd hfull hroom.ne
  have hpos (k : Nat) : (r.rd + k) % c < r.slots.length := hsize.symm ▸ Nat.mod_lt _ (Nat.zero_lt_of_lt hroom)
  have hheld : ∀ k ∈ List.range r.count,
      ((r.push c f).slot ((r.rd + k) % c)).frame = (r.slot ((r.rd + k) % c)).frame := fun k hk => by
    rw [slot_push c r f _ (hpos k), if_neg (wr_ne_held h hroom (List.mem_range.mp hk))]
  have hnew : ((r.push c f).slot ((r.rd + r.count) % c)).frame = f := by
    rw [slot_push c r f _ (hpos r.count), if_pos h.2.2]
    exact Slot.frame_store _ f (hf _ (slot_mem (hpos r.count)))
  rw [frames, hrd', hcount', List.range_succ, List.map_append, List.map_congr_left hheld, List.map_singleton, hnew]
  rfl

theorem frames_push {f : List Byte} (h : r.indexed c) (hsize : r.slots.length = c)
    (hf : ∀ t ∈ r.slots, f.length ≤ t.fb.length) :
    (r.push c f).frames c = (if r.count = c then (r.frames c).drop 1 else r.frames c) ++ [f] := by
  split
  next hfull =>
    have hc : 0 < c := Nat.zero_lt_of_lt h.1
    have hroom : (r.dropOldest c).count < c := by rw [dropOldest_count]; omega
    rw [push_of_full f hfull hc, ← frames_dropOldest]
    exact frames_push_of_room (indexed_dropOldest h) (by rwa [dropOldest_slots]) hroom (by rwa [dropOldest_slots])
  next hne => exact frames_push_of_room h hsize (Nat.lt_of_le_of_ne h.2.1 hne) hf

/-- A push keeps the size of every slot. -/
theorem push_slot_size {size : Nat} (f : List Byte) (hsize : ∀ t ∈ r.slots, t.fb.length = size) :
    ∀ t ∈ (r.push c f).slots, t.fb.length = size := by
  intro t ht
  rw [push_slots] at ht
  rcases mem_modify_imp _ _ _ _ ht with hold | ⟨u, hu, rfl⟩
  · exact hsize t hold
  · rw [Slot.store_fb_length, hsize u hu]

/-- After any pushes the ring holds the last `c` of its frames and the pushed ones (41_ring.md R144). -/
theorem frames_foldl_push {size : Nat} (fs : List (List Byte)) (h : r.indexed c) (hlen : r.slots.length = c)
    (hsize : ∀ t ∈ r.slots, t.fb.length = size) (hfs : ∀ f ∈ fs, f.length ≤ size) :
    (fs.foldl (push c) r).frames c = (r.frames c ++ fs).drop (r.count + fs.length - c) := by
  induction fs generalizing r with
  | nil =>
    have hzero : r.count + ([] : List (List Byte)).length - c = 0 := Nat.sub_eq_zero_of_le h.2.1
    rw [hzero, List.foldl_nil, List.append_nil, List.drop_zero]
  | cons f fs ih =>
    obtain ⟨hf, hfs⟩ := List.forall_mem_cons.mp hfs
    rw [List.foldl_cons, List.length_cons,
      ih (indexed_push f h) (by rw [push_slots, List.length_modify, hlen]) (push_slot_size f hsize) hfs,
      frames_push h hlen fun t ht => (hsize t ht).symm ▸ hf]
    rcases r.push_rd_count c f with ⟨hfull, -, hcount'⟩ | ⟨hroom, -, hcount'⟩
    · have hc : 0 < c := Nat.zero_lt_of_lt h.1
      have hne : 1 ≤ (r.frames c).length := by rwa [frames_length, hfull]
      rw [if_pos hfull, List.append_assoc, List.singleton_append, ← List.drop_append_of_le_length hne, List.drop_drop]
      congr 1
      omega
    · rw [if_neg hroom, List.append_assoc, List.singleton_append]
      congr 1
      omega

end Ring

/-- Settles O43. -/
theorem ringIsAFifoThatOverwrites : Obligations.RingIsAFifoThatOverwrites := fun c r h hsize =>
  ⟨fun _ hf => Ring.frames_push h hsize hf, Ring.oldest_eq_head? h.1, Ring.frames_dropOldest c r⟩

/-- Settles O45: the empty ring adds no frame to the pushed ones. -/
theorem ringHoldsTheLastFrames : Obligations.RingHoldsTheLastFrames := by
  intro c size r fs h hlen hempty hsize hfs
  rw [Ring.frames_foldl_push fs h hlen hsize hfs, Ring.frames_of_count_eq_zero hempty, hempty, List.nil_append,
    Nat.zero_add]

end Sys2Proof.Machine
end

section
/-! The selector's two writers, SWITCH and reset, and that TX is empty where they write (42_arbiter.md R160, R165,
20_memory.md R72). -/

namespace Sys2Proof.Machine

/-- A micro-step changes DIR only at SWITCH's selector write, which leaves TX alone (42_arbiter.md R160). -/
theorem MicroEffect.dir_cases {i : Instr} {μ : Micro} {s t : State} (h : MicroEffect i μ s t) :
    t.dir = s.dir ∨ (t.tx = s.tx ∧ ∃ next, μ = .steer t.dir next) := by
  cases h with
  | steer d next => exact .inr ⟨State.steer_tx s d, next, congrArg (Micro.steer · next) (State.steer_dir s d).symm⟩
  | _ => exact .inl rfl

/-- Where the selector is written TX is empty (42_arbiter.md R160). -/
theorem State.SoundAt.tx_eq_nil_of_steer {s : State} {i : Instr} {d : Direction} {next : Micro}
    (h : s.SoundAt i (.steer d next)) : s.tx = [] := by
  rcases h.steer with hfree | ⟨_, _, _, _, htx⟩
  · cases hfree
  · exact htx

/-- Settles O19: the sequencer's one write of DIR is SWITCH's, at a sound position, and the environment's one is
reset. -/
theorem selectorChangesOnlyWithTxDrained : Obligations.SelectorChangesOnlyWithTxDrained := by
  intro s e hinv hne
  cases e with
  | seq =>
    rcases seqStep_cases s with ⟨_, h⟩ | ⟨i, μ, hp, h⟩
    · exact absurd (congrArg State.dir h) hne
    · rcases h.dir_cases with hsame | ⟨htx, next, rfl⟩
      · exact absurd hsame hne
      · have hempty : s.tx = [] := ((State.positioned_busy hp).mp (s.inv_iff.mp hinv).2).tx_eq_nil_of_steer
        exact ⟨htx.trans hempty, .inr ⟨rfl, hempty, i, next, hp⟩⟩
  | reset => exact ⟨rfl, .inl rfl⟩
  | _ => simp [State.move] at hne

end Sys2Proof.Machine
end

section
/-! BusArbiter's commands with TX empty (42_arbiter.md R161-R164). -/

namespace Sys2Proof.Machine

/-- An empty TX takes all the bytes it has room for, and the command goes on (20_memory.md R70). -/
theorem QuietTo.pushAllEmpty {s t : State} {i : Instr} {next : Micro} {bytes : List Byte} (htx : s.tx = [])
    (room : bytes.length ≤ s.build.txFifoDepth) (hnext : ∀ back, next ≠ .wait back)
    (ht : QuietTo (State.busyAt { s with tx := bytes } i next) t) :
    QuietTo (s.busyAt i (.push bytes next)) t :=
  .pushAll bytes (by simpa [htx] using room) hnext (by rwa [htx, List.nil_append])

theorem Direction.toByte_eq_ite (d : Direction) : d.toByte = if d = .toDevice then 1 else 0 := by
  cases d <;> rfl

/-- Settles O16: BUS_DIR finishes in its first micro-step. -/
theorem busDirAnswersTheDirection : Obligations.BusDirAnswersTheDirection :=
  ⟨decodeOfEncode .busDir rfl, fun s hready => s.dir.toByte_eq_ite ▸ exec_finish hready rfl⟩

/-- Settles O12: both commands are SWITCH and then `finish`. -/
theorem busCommandsSwitch : Obligations.BusCommandsSwitch := fun _ hready htx =>
  ⟨exec_ready hready (.goAt rfl nofun (.switch htx nofun (.finish _ _))),
    exec_ready hready (.goAt rfl nofun (.switch htx nofun (.finish _ _)))⟩

/-- Settles O17: SWITCH to the console, and then a push of bytes that all have room. -/
theorem conWriteQueuesItsBytes : Obligations.ConWriteQueuesItsBytes := fun _ _ hready htx room =>
  exec_ready hready (.goAt rfl nofun (.switch htx nofun (.pushAllEmpty htx room nofun (.finish _ _))))

end Sys2Proof.Machine
end

section
/-! SWITCH with TX not empty: the command waits in its flush, and goes on with the emission of TX's last byte
(42_arbiter.md R160, 20_memory.md R70). -/

namespace Sys2Proof.Machine

/-- SWITCH with TX not empty waits (42_arbiter.md R160). -/
theorem QuietTo.switchWait {s : State} {i : Instr} {d : Direction} {next : Micro} (htx : s.tx ≠ []) :
    QuietTo (s.busyAt i (switchTo d next)) (s.busyAt i (.wait (.flush d next))) := by
  refine waitAt (u := s) ?_
  rw [switchTo, microOf_flush]
  exact if_neg htx

/-- The serializer has emitted every byte of TX, and `rest` is still to come. -/
def State.drained (s : State) (rest : List Input) : State :=
  { s with tx := [], inputs := rest, history := s.history ++ s.tx.map (.wire s.dir) }

theorem State.emitted_length (s : State) (rest : List Input) :
    { s.emitted s.tx.length with inputs := rest } = s.drained rest := by
  simp [State.emitted, State.drained]

/-- A command that waits in its flush, the serializer emitting all of TX and then nobody else moving: it goes on behind
SWITCH, on the new side (42_arbiter.md R160). -/
theorem step_flush_wait {i : Instr} {d : Direction} {next : Micro} {s u : State} {rest : List Input}
    (hp : s.phase = .busy i (.wait (.flush d next))) (hi : s.inputs = List.replicate s.tx.length .emit ++ rest)
    (hq : QuietInputs s.source rest) (hnext : ∀ back, next ≠ .wait back)
    (hu : QuietTo (((s.drained rest).onSide d).busyAt i next) u) : step s = .next u := by
  refine step_emits hp hi hq ?_
  rw [State.emitted_length, ← State.busyAt_of_phase (s := s.drained rest) hp]
  exact .wait nofun (.switch rfl hnext hu)

end Sys2Proof.Machine
end

section
/-! The statements of the commands around their SWITCH: the tests before it, and the RELEASE restore that may end with
one (43_transport.md R185-R188, 44_control.md R244). -/

namespace Sys2Proof.Machine

variable {s t : State} {cap : BitVec 16}

/-! ## SEND_REQ -/

/-- SEND_REQ's tests pass, and it comes to its SWITCH (43_transport.md R186). -/
theorem quietTo_sendReq_of_switch {flags : Byte} {bytes : List Byte} (hconn : s.connected = true)
    (hid : s.pendingId = 0) (hvalid : badRequest s.build flags bytes = false)
    (ht : QuietTo (s.busyAt (.sendReq flags bytes) (switchTo .toDevice .spacing)) t) :
    QuietTo (s.busyAt (.sendReq flags bytes) .start) t := by
  refine .goAt (u := s) (ν := .sendBusy) (if_pos hconn) nofun ?_
  refine .goAt (u := s) (ν := .sendParam) (if_neg (not_not.mpr hid)) nofun ?_
  exact .goAt (u := s) (ν := switchTo .toDevice .spacing) (if_neg (Bool.eq_false_iff.mp hvalid)) nofun ht

/-- SEND_REQ behind its SWITCH, with nothing that spaces it, records its request and queues its bytes (43_transport.md
R186). -/
theorem quietTo_sendReq_spacing {flags : Byte} {bytes : List Byte} (htx : s.tx = []) (hspaced : s.mustSpace = false)
    (room : bytes.length ≤ s.build.txFifoDepth) :
    QuietTo (s.busyAt (.sendReq flags bytes) .spacing)
      (State.answered
        { s with
          tx := bytes
          pendingId := requestId flags bytes
          expectedLen := 0
          matched := false
          lastSend := s.now
          lastSendValid := true } .ok []) := by
  refine .goAt (u := s) (ν := .setPending) (if_neg (Bool.eq_false_iff.mp hspaced)) nofun ?_
  refine .goAt rfl nofun (.goAt rfl nofun (.goAt rfl nofun ?_))
  exact .pushAllEmpty htx room nofun (.goAt rfl nofun (.goAt rfl nofun (.finish _ _)))

/-! ## The RELEASE restore -/

theorem microOf_release {i : Instr} (hi : i = .popNotif ∨ ∃ cap, i = .getResp cap) (st : Status) (data : List Byte)
    (s : State) :
    microOf i (.release st data) s =
      if s.release then s.goto (switchTo .toConsole (.finish st data)) else s.goto (.finish st data) := by
  rcases hi with rfl | ⟨cap, rfl⟩ <;> rfl

/-- The RELEASE restore with TX empty, and the end of the command (44_control.md R244). -/
theorem QuietTo.release {i : Instr} (hi : i = .popNotif ∨ ∃ cap, i = .getResp cap) (htx : s.tx = []) (st : Status)
    (data : List Byte) : QuietTo (s.busyAt i (.release st data)) (s.restored.answered st data) := by
  rw [State.restored]
  split
  · rename_i hrelease
    refine .goAt (u := s) (ν := switchTo .toConsole (.finish st data)) ?_ nofun (.switch htx nofun (.finish st data))
    exact (microOf_release hi st data _).trans (if_pos hrelease)
  · rename_i hkeep
    refine .goAt (u := s) (ν := .finish st data) ?_ nofun (.finish st data)
    exact (microOf_release hi st data _).trans (if_neg hkeep)

/-- The RELEASE restore with TX not empty waits in its flush (44_control.md R244, 42_arbiter.md R160). -/
theorem QuietTo.releaseWait {i : Instr} (hi : i = .popNotif ∨ ∃ cap, i = .getResp cap) (hrelease : s.release = true)
    (htx : s.tx ≠ []) (st : Status) (data : List Byte) :
    QuietTo (s.busyAt i (.release st data)) (s.busyAt i (.wait (.flush .toConsole (.finish st data)))) :=
  .goAt (u := s) (ν := switchTo .toConsole (.finish st data)) ((microOf_release hi st data _).trans (if_pos hrelease))
    nofun (.switchWait htx)

/-! ## GET_RESP -/

/-- GET_RESP samples the clock first (43_transport.md R187). -/
def State.timed (s : State) : State := { s with getT0 := s.now }

theorem quietTo_getResp_of_noRequest (hid : s.pendingId = 0)
    (ht : QuietTo (s.timed.busyAt (.getResp cap) (.release .noRequest [])) t) :
    QuietTo (s.busyAt (.getResp cap) .start) t :=
  .goAt (u := s.timed) (ν := .respPending) rfl nofun
    (.goAt (u := s.timed) (ν := .release .noRequest []) (if_pos hid) nofun ht)

/-- With a request pending GET_RESP comes to its Param test (43_transport.md R187). -/
theorem quietTo_getResp_of_pending (hid : s.pendingId ≠ 0) (ht : QuietTo (s.timed.busyAt (.getResp cap) .respCap) t) :
    QuietTo (s.busyAt (.getResp cap) .start) t :=
  .goAt (u := s.timed) (ν := .respPending) rfl nofun
    (.goAt (u := s.timed) (ν := .respCap) (if_neg hid) nofun ht)

theorem quietTo_getResp_of_param (hid : s.pendingId ≠ 0) (hcap : badCapacity s.build cap = true)
    (ht : QuietTo (s.timed.busyAt (.getResp cap) (.release .param [])) t) :
    QuietTo (s.busyAt (.getResp cap) .start) t :=
  quietTo_getResp_of_pending hid (.goAt (u := s.timed) (ν := .release .param []) (if_pos hcap) nofun ht)

/-- GET_RESP's tests pass, and it comes to its SWITCH (43_transport.md R187). -/
theorem quietTo_getResp_of_switch (hid : s.pendingId ≠ 0) (hcap : badCapacity s.build cap = false)
    (ht : QuietTo (s.timed.busyAt (.getResp cap) (switchTo .toDevice .respLen)) t) :
    QuietTo (s.busyAt (.getResp cap) .start) t :=
  quietTo_getResp_of_pending hid
    (.goAt (u := s.timed) (ν := switchTo .toDevice .respLen) (if_neg (Bool.eq_false_iff.mp hcap)) nofun ht)

/-- GET_RESP's Param test passes a capacity of 1 to MAX_RESPONSE_LEN (43_transport.md R187). -/
theorem badCapacity_eq_false {b : Build} (hne : cap ≠ 0) (hle : cap.toNat ≤ b.maxResponseLen) :
    badCapacity b cap = false :=
  decide_eq_false (not_or.mpr ⟨hne, Nat.not_lt.mpr hle⟩)

/-- A pass of GET_RESP's loop that finds nothing to scan comes to its deadline test (43_transport.md R187). -/
theorem quietTo_getResp_of_nothing (hm : s.matched = false) (hrx : s.rx.length < 2)
    (ht : QuietTo (s.busyAt (.getResp cap) (.respDeadline .none)) t) :
    QuietTo (s.busyAt (.getResp cap) .respLoop) t := by
  have hloop : microOf (.getResp cap) .respLoop (s.busyAt (.getResp cap) .respLoop) =
      s.busyAt (.getResp cap) (.scanned .none) :=
    (if_neg (Bool.eq_false_iff.mp hm)).trans (if_neg (Nat.not_le.mpr hrx))
  exact .goAt hloop nofun (.goAt (u := s) (ν := .respShort .none) rfl nofun
    (.goAt (u := s) (ν := .respDeadline .none) rfl nofun ht))

/-- GET_RESP's deadline has come: it clears the request and answers Timeout (43_transport.md R187). -/
theorem quietTo_getResp_due {r : ScanResult} (htx : s.tx = []) (hdue : s.responseDue = true) :
    QuietTo (s.busyAt (.getResp cap) (.respDeadline r)) (s.clearPending.restored.answered .timeout []) :=
  .goAt (u := s) (ν := .clear .timeout []) (if_pos hdue) nofun
    (.goAt (u := s.clearPending) rfl nofun (.release (s := s.clearPending) (.inr ⟨cap, rfl⟩) htx _ _))

/-- GET_RESP's deadline has not come, and there was nothing to scan: it waits (43_transport.md R187). -/
theorem quietTo_getResp_wait (hdue : s.responseDue = false) :
    QuietTo (s.busyAt (.getResp cap) (.respDeadline .none)) (s.busyAt (.getResp cap) (.wait .respLoop)) :=
  .goAt (u := s) (ν := .respYield .none) (if_neg (Bool.eq_false_iff.mp hdue)) nofun (.waitAt rfl)

/-! ## POP_NOTIF -/

/-- POP_NOTIF with a latched match, or with nothing to scan, goes on to the ring (43_transport.md R188). -/
theorem quietTo_popNotif_of_popRing (h : s.matched = true ∨ s.rx.length < 2)
    (ht : QuietTo (s.busyAt .popNotif .popRing) t) : QuietTo (s.busyAt .popNotif .popMatched) t := by
  cases hm : s.matched with
  | true => exact .goAt (u := s) (ν := .popRing) (if_pos hm) nofun ht
  | false =>
    have hrx : s.rx.length < 2 := h.resolve_left (Bool.eq_false_iff.mp hm)
    refine .goAt (u := s) (ν := .popLoop) (if_neg (Bool.eq_false_iff.mp hm)) nofun ?_
    exact .goAt (u := s) (ν := .popRing) (if_neg (Nat.not_le.mpr hrx)) nofun ht

/-- POP_NOTIF of an empty ring (43_transport.md R188). -/
theorem quietTo_popNotif_empty (htx : s.tx = []) (hempty : s.ring.count = 0) :
    QuietTo (s.busyAt .popNotif .popRing) (s.restored.answered .empty []) := by
  have hpop : popRingStep (s.busyAt .popNotif .popRing) = s.busyAt .popNotif (.popped none) := by
    rcases popRingStep_cases (s.busyAt .popNotif .popRing) with ⟨_, h⟩ | ⟨hne, _⟩
    · exact h
    · exact absurd hempty hne
  exact .goAt hpop nofun
    (.goAt (u := s) (ν := .release .empty []) rfl nofun (.release (.inl rfl) htx _ _))

end Sys2Proof.Machine
end

section
/-! The commands that switch, and the RELEASE restore, with TX not empty (42_arbiter.md R160). -/

namespace Sys2Proof.Machine

/-- Settles O14: each command's own statements, up to the flush it waits in. -/
theorem switchingCommandsWaitForTheFlush : Obligations.SwitchingCommandsWaitForTheFlush := by
  intro s hready htx
  refine ⟨?busDev, ?busCon, fun bytes => ?conWrite, fun bytes => ?sessionInit,
    fun flags bytes hconn hid hflags hne hlen => ?sendReq, fun cap hid hne hle => ?getResp, fun hconn => ?popNotif,
    fun cap hrelease hid => ?noRequest, fun cap hrelease hid hcap => ?param, fun hrelease hconn => ?notConnected⟩
  case busDev => exact exec_ready hready (.goAt (u := s) rfl nofun (.switchWait htx))
  case busCon => exact exec_ready hready (.goAt (u := s) rfl nofun (.switchWait htx))
  case conWrite => exact exec_ready hready (.goAt (u := s) rfl nofun (.switchWait htx))
  case sessionInit => exact exec_ready hready (.goAt (u := s) rfl nofun (.switchWait htx))
  case sendReq =>
    have hvalid := badRequest_eq_false hflags (List.length_pos_iff.mpr hne) hlen
    exact exec_ready hready (quietTo_sendReq_of_switch hconn hid hvalid (.switchWait htx))
  case getResp =>
    exact exec_ready hready (quietTo_getResp_of_switch hid (badCapacity_eq_false hne hle) (.switchWait htx))
  case popNotif =>
    exact exec_ready hready
      (.goAt (u := s) (ν := switchTo .toDevice .popMatched) (if_pos hconn) nofun (.switchWait htx))
  case noRequest =>
    refine exec_ready hready (quietTo_getResp_of_noRequest hid ?_)
    exact .releaseWait (s := s.timed) (.inr ⟨cap, rfl⟩) hrelease htx _ _
  case param =>
    have hbad : badCapacity s.build cap = true := decide_eq_true hcap
    refine exec_ready hready (quietTo_getResp_of_param hid hbad ?_)
    exact .releaseWait (s := s.timed) (.inr ⟨cap, rfl⟩) hrelease htx _ _
  case notConnected =>
    refine exec_ready hready ?_
    refine .goAt (u := s) (ν := .release .notConnected []) (if_neg (Bool.eq_false_iff.mp hconn)) nofun ?_
    exact .releaseWait (.inl rfl) hrelease htx _ _

/-- GET_RESP behind its SWITCH, with nothing to scan: Timeout if its deadline has come, else it waits for the device
(43_transport.md R187). -/
theorem quietTo_getResp_respLen {s : State} (cap : BitVec 16) (htx : s.tx = []) (hm : s.matched = false)
    (hrx : s.rx.length < 2) :
    QuietTo (s.busyAt (.getResp cap) .respLen)
      (if s.respTimeoutMs ≤ s.now - s.getT0 then s.clearPending.restored.answered .timeout []
       else State.busyAt { s with expectedLen := capByte cap } (.getResp cap) (.wait .respLoop)) := by
  refine .goAt (u := { s with expectedLen := capByte cap }) rfl nofun (quietTo_getResp_of_nothing hm hrx ?_)
  split
  · rename_i hdue
    exact quietTo_getResp_due htx (decide_eq_true hdue)
  · rename_i hdue
    exact quietTo_getResp_wait (decide_eq_false hdue)

/-- Settles O15: `step_flush_wait`, and what each command does behind its SWITCH. -/
theorem flushWaitsEndWithTheLastByte : Obligations.FlushWaitsEndWithTheLastByte := by
  intro s rest _ hi hq t
  refine ⟨fun hp => ?busDev, fun hp => ?busCon, fun bytes hp room => ?conWrite, fun bytes hp room => ?sessionInit,
    fun flags bytes hp room hspaced => ?sendReq, fun cap hp hm hrx => ?getResp, fun hp hscan hempty => ?popNotif,
    fun cmd st data hcmd hp => ?restore⟩
  case busDev => exact step_flush_wait hp hi hq nofun (.finish _ _)
  case busCon => exact step_flush_wait hp hi hq nofun (.finish _ _)
  case conWrite => exact step_flush_wait hp hi hq nofun (.pushAllEmpty rfl room nofun (.finish _ _))
  case sessionInit =>
    exact step_flush_wait hp hi hq nofun (.pushAllEmpty rfl room nofun (.goAt rfl nofun (.finish _ _)))
  case sendReq =>
    have hnospacing : (t.onSide .toDevice).mustSpace = false := State.mustSpace_eq_false hspaced
    exact step_flush_wait hp hi hq nofun (quietTo_sendReq_spacing rfl hnospacing room)
  case getResp => exact step_flush_wait hp hi hq nofun (quietTo_getResp_respLen cap rfl hm hrx)
  case popNotif =>
    exact step_flush_wait hp hi hq nofun (quietTo_popNotif_of_popRing hscan (quietTo_popNotif_empty rfl hempty))
  case restore => exact step_flush_wait hp hi hq nofun (.finish st data)

end Sys2Proof.Machine
end

section
/-! A SWITCH among the serializer's moves: whatever micro-steps the sequencer takes between them, the command comes no
further than its flush before TX is empty (42_arbiter.md R160, 20_memory.md R70). -/

namespace Sys2Proof.Machine

/-- Where a command that begins with `SWITCH(d)` stands before its flush has ended. -/
inductive BeforeSteer (i : Instr) (d : Direction) (next : Micro) : Micro → Prop where
  | start (h : ∀ s : State, microOf i .start s = s.goto (switchTo d next)) : BeforeSteer i d next .start
  | flush : BeforeSteer i d next (.flush d next)
  | wait : BeforeSteer i d next (.wait (.flush d next))

variable {i : Instr} {d : Direction} {next μ : Micro} {s t : State}

/-- While TX holds a byte a micro-step leaves the command before the end of its flush, and changes nothing else. -/
theorem BeforeSteer.seqStep (h : BeforeSteer i d next μ) (htx : s.tx ≠ []) :
    ∃ ν, BeforeSteer i d next ν ∧ seqStep (s.busyAt i μ) = s.busyAt i ν := by
  cases h with
  | start hstart => exact ⟨_, .flush, hstart _⟩
  | flush => exact ⟨_, .wait, (microOf_flush i d next _).trans (if_neg htx)⟩
  | wait => exact ⟨_, .flush, microOf_wait i _ _⟩

/-- With TX empty the command goes on through its SWITCH. -/
theorem BeforeSteer.quietTo (h : BeforeSteer i d next μ) (htx : s.tx = []) (hnext : ∀ back, next ≠ .wait back)
    (ht : QuietTo ((s.onSide d).busyAt i next) t) : QuietTo (s.busyAt i μ) t := by
  have hswitch : QuietTo (s.busyAt i (.flush d next)) t := .switch htx hnext ht
  cases h with
  | start hstart => exact .goAt (hstart _) nofun hswitch
  | flush => exact hswitch
  | wait => exact .wait nofun hswitch

theorem State.emit_busyAt (s : State) (i : Instr) (μ : Micro) : (s.busyAt i μ).emit = s.emit.busyAt i μ := by
  cases htx : s.tx with
  | nil => rw [State.emit_nil s htx, State.emit_nil (s.busyAt i μ) htx]
  | cons b bs => rw [State.emit_cons s htx, State.emit_cons (s.busyAt i μ) htx]; rfl

/-- Micro-steps and emissions, the last of them that of TX's last byte: every byte goes out, and the command still
stands before the end of its flush. -/
theorem runInputs_flushing {moves rest : List Input} (h : BeforeSteer i d next μ)
    (hmoves : ∀ e ∈ moves, e = .seq ∨ e = .emit) (hcount : moves.count .emit + 1 = s.tx.length) :
    ∃ ν, BeforeSteer i d next ν ∧
      runInputs (microOf i) (moves ++ .emit :: rest) (s.busyAt i μ) =
        runInputs (microOf i) rest ((s.emitted s.tx.length).busyAt i ν) := by
  induction moves generalizing s μ with
  | nil =>
    refine ⟨μ, h, ?_⟩
    rw [List.nil_append, runInputs, if_neg nofun, ← hcount, List.count_nil, State.emitted_succ, State.emitted_zero]
    exact congrArg _ (s.emit_busyAt i μ)
  | cons e moves ih =>
    obtain ⟨he, hlater⟩ := List.forall_mem_cons.mp hmoves
    rw [List.cons_append]
    rcases he with rfl | rfl <;> rw [runInputs, if_neg nofun]
    · rw [List.count_cons_of_ne (by decide)] at hcount
      have htx : s.tx ≠ [] := List.ne_nil_of_length_eq_add_one hcount.symm
      obtain ⟨ν, hν, hstep⟩ := h.seqStep htx
      rw [seqStepWith_eq i _ (.inr ⟨μ, rfl⟩), hstep]
      exact ih hν hlater hcount
    · rw [List.count_cons_self] at hcount
      have hleft : moves.count .emit + 1 = s.emit.tx.length := by rw [State.emit_tx, List.length_tail]; omega
      have hall : s.emitted s.tx.length = s.emit.emitted s.emit.tx.length := by
        rw [← hcount, State.emitted_succ, hleft]
      rw [State.emit_busyAt, hall]
      exact ih h hlater hleft

/-- A command issued in IDLE runs from its first statement (10_state.md R36). -/
theorem exec_idle (hp : s.phase = .idle) : exec i s = .next (runInputs (microOf i) s.inputs (s.busyAt i .start)) := by
  rw [exec_eq, runCommand, hp]
  rfl

/-- With nobody else moving, a command in progress goes on to its next rest. -/
theorem runInputs_of_quietTo {ν : Micro} {rest : List Input} (hq : QuietInputs s.source rest)
    (ht : QuietTo (State.busyAt { s with inputs := rest } i ν) t) :
    runInputs (microOf i) rest (s.busyAt i ν) = t := by
  rw [runInputs_quiet i (s.busyAt i ν) rest (quietInputs_cases _ _ hq) nofun]
  exact runQuiet_of_quietTo i _ t ht (.inr ⟨ν, rfl⟩) _ (Nat.le_refl _)

/-- A command that begins with SWITCH, issued with bytes in TX and the serializer emitting all of them among its
micro-steps: it goes on behind SWITCH, on the new side. -/
theorem exec_flushing {moves rest : List Input} (hp : s.phase = .idle) (hi : s.inputs = moves ++ .emit :: rest)
    (hmoves : ∀ e ∈ moves, e = .seq ∨ e = .emit) (hcount : moves.count .emit + 1 = s.tx.length)
    (hq : QuietInputs s.source rest) (hstart : ∀ s : State, microOf i .start s = s.goto (switchTo d next))
    (hnext : ∀ back, next ≠ .wait back) (ht : QuietTo (((s.drained rest).onSide d).busyAt i next) t) :
    exec i s = .next t := by
  obtain ⟨ν, hν, hrun⟩ := runInputs_flushing (rest := rest) (.start hstart) hmoves hcount
  have hquiet : QuietTo (State.busyAt { s.emitted s.tx.length with inputs := rest } i ν) t := by
    rw [State.emitted_length]
    exact hν.quietTo rfl hnext ht
  rw [exec_idle hp, hi, hrun]
  exact congrArg _ (runInputs_of_quietTo (ν := ν) hq hquiet)

/-- Settles O13: both commands are SWITCH and then `finish`. -/
theorem busCommandsFlushBeforeTheySwitch : Obligations.BusCommandsFlushBeforeTheySwitch :=
  fun _ _ _ hp hi hmoves hcount hq =>
    ⟨exec_flushing hp hi hmoves hcount hq (fun _ => rfl) nofun (.finish _ _),
      exec_flushing hp hi hmoves hcount hq (fun _ => rfl) nofun (.finish _ _)⟩

end Sys2Proof.Machine
end

section
/-! SESSION_INIT and SEND_REQ with TX empty (43_transport.md R185, R186). -/

namespace Sys2Proof.Machine

/-- Settles O20: SWITCH, the push of bytes that all have room, and `CONNECTED <- 1`. -/
theorem sessionInitConnects : Obligations.SessionInitConnects := fun _ _ hready htx room =>
  exec_ready hready
    (.goAt rfl nofun (.switch htx nofun (.pushAllEmpty htx room nofun (.goAt rfl nofun (.finish _ _)))))

/-- Settles O22: each test that fails finishes the command, and those before it change nothing. -/
theorem sendReqRefusesInOrder : Obligations.SendReqRefusesInOrder := by
  intro s flags bytes hready
  refine ⟨fun hconn => ?notConnected, fun hconn hid => ?busy, fun hconn hid hbad => ?param⟩
  case notConnected => exact exec_finish hready (if_neg (Bool.eq_false_iff.mp hconn))
  case busy =>
    refine exec_ready hready (.goAt (u := s) (ν := .sendBusy) (if_pos hconn) nofun ?_)
    exact .finishAt (if_pos hid)
  case param =>
    have hinvalid : badRequest s.build flags bytes = true := decide_eq_true hbad
    refine exec_ready hready (.goAt (u := s) (ν := .sendBusy) (if_pos hconn) nofun ?_)
    refine .goAt (u := s) (ν := .sendParam) (if_neg (not_not.mpr hid)) nofun ?_
    exact .finishAt (if_pos hinvalid)

/-- Settles O23: the tests pass, SWITCH goes through, and nothing spaces the request. -/
theorem sendReqSends : Obligations.SendReqSends := by
  intro s flags bytes hready hconn hid hflags hne hlen htx room hspaced
  have hvalid := badRequest_eq_false hflags (List.length_pos_iff.mpr hne) hlen
  have hnospacing : (s.onSide .toDevice).mustSpace = false := State.mustSpace_eq_false hspaced
  exact exec_ready hready
    (quietTo_sendReq_of_switch hconn hid hvalid (.switch htx nofun (quietTo_sendReq_spacing htx hnospacing room)))

end Sys2Proof.Machine
end

section
/-! A command in progress at a `Wait()`, with one move of the clock or of a line and then nobody else moving: it goes on
to its next rest (00_scope.md R5, R11). -/

namespace Sys2Proof.Machine

variable {s t : State} {i : Instr} {back : Micro} {rest : List Input}

/-- The clock has advanced by `ms`, and `rest` is still to come. -/
def State.ticked (s : State) (ms : Time) (rest : List Input) : State := { s.tick ms with inputs := rest }

/-- With a byte's arrival RX has come to hold `chars`, and `rest` is still to come. -/
def State.received (s : State) (chars : List Byte) (rest : List Input) : State := { s with rx := chars, inputs := rest }

/-- A command that stands at a `Wait()`, behind the one move entered before the environment is quiet, tests again at
`back` (00_scope.md R11). -/
theorem step_of_move {u : State} {e : Input} (hp : s.phase = .busy i (.wait back)) (hi : s.inputs = e :: rest)
    (hq : QuietInputs u.source rest) (hu : u.phase = s.phase)
    (hmove : runInputs (microOf i) (e :: rest) s = runInputs (microOf i) rest u) (hback : ∀ b, back ≠ .wait b)
    (ht : QuietTo (State.busyAt { u with inputs := rest } i back) t) : step s = .next t := by
  have hrun : runInputs (microOf i) rest (u.busyAt i (.wait back)) = t := runInputs_of_quietTo hq (.wait hback ht)
  rw [State.busyAt_of_phase (hu.trans hp), ← hmove, ← hi] at hrun
  rw [step_busy s i _ hp, exec_eq, runCommand, hp, ← hrun]
  exact if_pos rfl

/-- A waiting command, at a tick of the clock (00_scope.md R5). -/
theorem step_tick_wait {ms : Time} (hp : s.phase = .busy i (.wait back)) (hi : s.inputs = .tick ms :: rest)
    (hq : QuietInputs s.source rest) (hback : ∀ b, back ≠ .wait b)
    (ht : QuietTo ((s.ticked ms rest).busyAt i back) t) : step s = .next t :=
  step_of_move (u := s.tick ms) hp hi hq rfl (by rw [runInputs, if_neg (by simp [hp])]) hback ht

/-- A waiting command, at a byte that arrives on its side and for which RX has room (20_memory.md R69). -/
theorem step_arrive_wait {b : Byte} {chars : List Byte} (hp : s.phase = .busy i (.wait back))
    (hi : s.inputs = .arrive s.dir b :: rest) (hq : QuietInputs s.source rest)
    (room : s.rx.length < s.build.rxFifoDepth) (hchars : s.rx ++ [b] = chars) (hback : ∀ b, back ≠ .wait b)
    (ht : QuietTo ((s.received chars rest).busyAt i back) t) : step s = .next t :=
  step_of_move (u := { s with rx := chars }) hp hi hq rfl
    (by rw [runInputs, if_neg (by simp [hp]), s.arrive_room b room, hchars]) hback ht

/-- A run that comes to the `Wait()` the command stood at leaves PHASE as it was. -/
theorem QuietTo.staysAt {μ : Micro} (hp : t.phase = .busy i μ) (h : QuietTo s (t.busyAt i μ)) : QuietTo s t := by
  rwa [State.busyAt_of_phase hp] at h

/-- SEND_REQ's spacing loop waits while too little time has passed (43_transport.md R186). -/
theorem quietTo_sendReq_tooEarly {flags : Byte} {bytes : List Byte} (hvalid : s.lastSendValid = true)
    (hearly : s.now - s.lastSend < s.reqDelayMs) :
    QuietTo (s.busyAt (.sendReq flags bytes) .spacing) (s.busyAt (.sendReq flags bytes) (.wait .spacing)) := by
  have hspace : s.mustSpace = true := by simp [State.mustSpace, hvalid, hearly]
  exact .waitAt (if_pos hspace)

/-- Settles O24: the spacing loop's test, at the command's first pass and behind a tick. -/
theorem sendReqWaitsForTheSpacing : Obligations.SendReqWaitsForTheSpacing := by
  refine ⟨?comesTooEarly, ?ticks⟩
  case comesTooEarly =>
    intro s flags bytes hready hconn hid hflags hne hlen htx hvalid hearly
    have hgood := badRequest_eq_false hflags (List.length_pos_iff.mpr hne) hlen
    refine exec_ready hready (quietTo_sendReq_of_switch hconn hid hgood (.switch htx nofun ?_))
    exact quietTo_sendReq_tooEarly (s := s.onSide .toDevice) hvalid hearly
  case ticks =>
    intro s flags bytes ms rest hp hi hq hvalid htx room
    refine step_tick_wait hp hi hq nofun ?_
    split
    next hearly =>
      exact .staysAt (t := s.ticked ms rest) hp (quietTo_sendReq_tooEarly (s := s.ticked ms rest) hvalid hearly)
    next hpassed =>
      have hspaced : (s.ticked ms rest).mustSpace = false :=
        State.mustSpace_eq_false fun _ => BitVec.not_lt.mp hpassed
      have hsend : QuietTo ((s.ticked ms rest).busyAt (.sendReq flags bytes) .spacing) _ :=
        quietTo_sendReq_spacing htx hspaced room
      rwa [← hvalid] at hsend

end Sys2Proof.Machine
end

section
/-! A quiet run through the receiving routines RX_READ, SCAN_STEP, OOB_DECODE and PAYLOAD_READ, whichever of GET_RESP
and POP_NOTIF runs them (43_transport.md R180-R184). -/

namespace Sys2Proof.Machine

/-- The positions of the receiving routines (43_transport.md R180-R184). -/
def Micro.receiving : Micro → Bool
  | .readStart _ _ | .readInit _ _ _ | .reading _ _ _ _ | .readDone _ _ => true
  | .scanPop | .scanDecode _ | .scanMatch _ | .scanStore _ | .scanProbe | .scanLatch => true
  | .oobLookup _ | .oobKnown _ _ | .oobDiscard _ _ | .oobLog _ _ | .oobPush _ => true
  | .payloadLen | .payloadStore _ | .payloadDiscard | .clear _ _ => true
  | _ => false

/-- GET_RESP and POP_NOTIF share the receiving routines. -/
theorem microOf_receiving {i : Instr} (hi : i = .popNotif ∨ ∃ cap, i = .getResp cap) {μ : Micro}
    (hμ : μ.receiving = true) (s : State) : microOf i μ s = receiveStep μ s := by
  rcases hi with rfl | ⟨cap, rfl⟩ <;> cases μ with
  | start | wait | flush | steer | push | finish | release | scanned | connect | sendBusy | sendParam | spacing
  | setPending | clearLen | clearMatched | stampTime | stampValid | respPending | respCap | respLen | respLoop
  | respCollect | respShort | respDeadline | respYield | popMatched | popLoop | popRing | popped | cfgLoad => cases hμ
  | _ => rfl

theorem State.withRx_self {s : State} {rest : List Byte} (h : s.rx = rest) : { s with rx := rest } = s := by
  rw [← h]

theorem State.rxDiscard_of_nil {s : State} (h : s.rx = []) : s.rxDiscard = s := State.withRx_self h

theorem readStep_of_cons {s : State} {n : Nat} {t0 : Time} {got rest : List Byte} {b : Byte} {k : Reader}
    (hlt : got.length < n) (hrx : s.rx = b :: rest) :
    readStep n t0 got k s = State.goto { s with rx := rest } (.reading n t0 (got ++ [b]) k) := by
  rw [readStep, if_pos hlt, hrx]

theorem readStep_of_late {s : State} {n : Nat} {t0 : Time} {got : List Byte} {k : Reader} (hrx : s.rx = [])
    (hlate : s.build.channelReadTimeoutMs ≤ s.now - t0) : readStep n t0 got k s = s.goto (.readDone got k) := by
  rw [readStep, hrx, if_pos hlate, ite_self]

theorem readStep_of_early {s : State} {n : Nat} {t0 : Time} {got : List Byte} {k : Reader} (hlt : got.length < n)
    (hrx : s.rx = []) (hearly : s.now - t0 < s.build.channelReadTimeoutMs) :
    readStep n t0 got k s = s.goto (.wait (.reading n t0 got k)) := by
  rw [readStep, if_pos hlt, hrx, if_neg (BitVec.not_le.mpr hearly)]

namespace QuietTo

variable {s t u : State} {i : Instr}

/-- A micro-step of the receiving routines, and then the rest of the run. -/
theorem receiveAt (hi : i = .popNotif ∨ ∃ cap, i = .getResp cap) {μ ν : Micro} (hμ : μ.receiving = true)
    (h : receiveStep μ (s.busyAt i μ) = u.busyAt i ν) (hν : ∀ back, ν ≠ .wait back)
    (ht : QuietTo (u.busyAt i ν) t) : QuietTo (s.busyAt i μ) t :=
  goAt ((microOf_receiving hi hμ _).trans h) hν ht

variable (hi : i = .popNotif ∨ ∃ cap, i = .getResp cap)
include hi

/-! ## RX_READ -/

/-- RX_READ samples the clock and begins to take bytes (43_transport.md R180). -/
theorem readStart {n : Nat} {k : Reader} (ht : QuietTo (s.busyAt i (.reading n s.now [] k)) t) :
    QuietTo (s.busyAt i (.readStart n k)) t :=
  .receiveAt hi (u := s) (ν := .readInit n s.now k) rfl rfl nofun (.receiveAt hi rfl rfl nofun ht)

/-- RX_READ takes the bytes RX holds, as long as it needs them (43_transport.md R180). -/
theorem readFront {n : Nat} {t0 : Time} {k : Reader} {got rest : List Byte} (front : List Byte)
    (hrx : s.rx = front ++ rest) (hn : got.length + front.length ≤ n)
    (ht : QuietTo (State.busyAt { s with rx := rest } i (.reading n t0 (got ++ front) k)) t) :
    QuietTo (s.busyAt i (.reading n t0 got k)) t := by
  induction front generalizing s got with
  | nil =>
    rwa [List.append_nil, State.withRx_self (rest := rest) hrx] at ht
  | cons b front ih =>
    rw [List.length_cons] at hn
    refine .receiveAt hi (u := { s with rx := front ++ rest }) (ν := .reading n t0 (got ++ [b]) k) rfl ?_ nofun
      (ih rfl (by rw [List.length_append, List.length_singleton]; omega) ?_)
    · exact readStep_of_cons (s := s.busyAt i _) (by omega) hrx
    · rwa [List.append_assoc, List.singleton_append]

/-- RX_READ with all its bytes returns to its caller (43_transport.md R180). -/
theorem readFull {n : Nat} {t0 : Time} {k : Reader} {got rest : List Byte} (front : List Byte)
    (hrx : s.rx = front ++ rest) (hn : got.length + front.length = n)
    (ht : QuietTo (State.busyAt { s with rx := rest } i (.readDone (got ++ front) k)) t) :
    QuietTo (s.busyAt i (.reading n t0 got k)) t := by
  refine .readFront hi front hrx (Nat.le_of_eq hn) ?_
  have hall : ¬ (got ++ front).length < n := by simp [hn]
  exact .receiveAt hi (u := { s with rx := rest }) (ν := .readDone (got ++ front) k) rfl (if_neg hall) nofun ht

/-- RX_READ without all its bytes returns early where CHANNEL_READ_TIMEOUT_MS has passed (43_transport.md R180). -/
theorem readLate {n : Nat} {t0 : Time} {k : Reader} {got : List Byte} (hrx : s.rx = [])
    (hlate : s.build.channelReadTimeoutMs ≤ s.now - t0) (ht : QuietTo (s.busyAt i (.readDone got k)) t) :
    QuietTo (s.busyAt i (.reading n t0 got k)) t :=
  .receiveAt hi (u := s) (ν := .readDone got k) rfl (readStep_of_late (s := s.busyAt i _) hrx hlate) nofun ht

/-- RX_READ without all its bytes waits as long as CHANNEL_READ_TIMEOUT_MS has not passed (43_transport.md R180). -/
theorem readWait {n : Nat} {t0 : Time} {k : Reader} {got : List Byte} (hlt : got.length < n) (hrx : s.rx = [])
    (hearly : s.now - t0 < s.build.channelReadTimeoutMs) :
    QuietTo (s.busyAt i (.reading n t0 got k)) (s.busyAt i (.wait (.reading n t0 got k))) :=
  .waitAt (u := s)
    ((microOf_receiving hi rfl _).trans (readStep_of_early (s := s.busyAt i _) hlt hrx hearly))

/-! ## PAYLOAD_READ -/

/-- PAYLOAD_READ's own statements before its read (43_transport.md R184). -/
theorem payloadStart {m : Nat} (hlen : s.expectedLen.toNat = m + 1)
    (ht : QuietTo (s.busyAt i (.reading (2 * m) s.now [] (.payload m))) t) :
    QuietTo (s.busyAt i .payloadLen) t := by
  have hm : s.expectedLen.toNat - 1 = m := by omega
  rw [← hm] at ht
  exact .receiveAt hi (u := s) rfl rfl nofun (.readStart hi ht)

/-- PAYLOAD_READ with all the payload's pairs stores what they decode to (43_transport.md R184). -/
theorem payloadFull {m : Nat} {t0 : Time} {got rest : List Byte} (front : List Byte) (hrx : s.rx = front ++ rest)
    (hm : got.length + front.length = 2 * m)
    (ht : QuietTo
      (State.busyAt { s with rx := rest, respBuf := memWrite s.respBuf 1 (decodePairs (got ++ front)) } i
        (.scanned .correlated)) t) :
    QuietTo (s.busyAt i (.reading (2 * m) t0 got (.payload m))) t := by
  refine .readFull hi front hrx hm ?_
  have hall : (got ++ front).length = 2 * m := by rw [List.length_append, hm]
  refine .receiveAt hi (u := { s with rx := rest }) (ν := .payloadStore (decodePairs (got ++ front))) rfl
    (if_pos hall) nofun ?_
  exact .receiveAt hi rfl rfl nofun ht

/-- PAYLOAD_READ that ends early answers TOO_SHORT (43_transport.md R184). -/
theorem payloadShort {m : Nat} {t0 : Time} {got : List Byte} (hlt : got.length < 2 * m) (hrx : s.rx = [])
    (hlate : s.build.channelReadTimeoutMs ≤ s.now - t0) (ht : QuietTo (s.busyAt i (.scanned .tooShort)) t) :
    QuietTo (s.busyAt i (.reading (2 * m) t0 got (.payload m))) t := by
  refine .readLate hi hrx hlate ?_
  refine .receiveAt hi (u := s) (ν := .payloadDiscard) rfl (if_neg hlt.ne) nofun ?_
  exact .receiveAt hi (u := s.rxDiscard) rfl rfl nofun (by rwa [State.rxDiscard_of_nil hrx])

/-! ## OOB_DECODE -/

/-- OOB_DECODE with all the notification's pairs pushes the frame (43_transport.md R183). -/
theorem oobFull {c : Byte} {e : Nat} {t0 : Time} {got rest : List Byte} (front : List Byte)
    (hrx : s.rx = front ++ rest) (he : got.length + front.length = 2 * e)
    (ht : QuietTo
      (State.busyAt
        { s with rx := rest, ring := s.ring.push s.build.ringCapacity (c :: decodePairs (got ++ front)) } i
        (.scanned .oob)) t) :
    QuietTo (s.busyAt i (.reading (2 * e) t0 got (.oob c e))) t := by
  refine .readFull hi front hrx he ?_
  have hall : ¬ (got ++ front).length < 2 * e := by simp [he]
  refine .receiveAt hi (u := { s with rx := rest }) (ν := .oobPush (c :: decodePairs (got ++ front))) rfl
    (if_neg hall) nofun ?_
  exact .receiveAt hi rfl rfl nofun ht

/-- OOB_DECODE discards what is in RX and logs the id, with no frame pushed (43_transport.md R183). -/
theorem oobDrop {kind : LogKind} {c : Byte} (ht : QuietTo ((s.rxDiscard.logEvent kind c).busyAt i (.scanned .oob)) t) :
    QuietTo (s.busyAt i (.oobDiscard kind c)) t :=
  .receiveAt hi (u := s.rxDiscard) (ν := .oobLog kind c) rfl rfl nofun (.receiveAt hi rfl rfl nofun ht)

/-- OOB_DECODE of a read that ends early drops the notification with a SHORT_OOB record (43_transport.md R183). -/
theorem oobShort {c : Byte} {e : Nat} {t0 : Time} {got : List Byte} (hlt : got.length < 2 * e) (hrx : s.rx = [])
    (hlate : s.build.channelReadTimeoutMs ≤ s.now - t0)
    (ht : QuietTo ((s.logEvent .shortOob c).busyAt i (.scanned .oob)) t) :
    QuietTo (s.busyAt i (.reading (2 * e) t0 got (.oob c e))) t := by
  refine .readLate hi hrx hlate ?_
  refine .receiveAt hi (u := s) (ν := .oobDiscard .shortOob c) rfl (if_pos hlt) nofun (.oobDrop hi ?_)
  rwa [State.rxDiscard_of_nil hrx]

/-! ## SCAN_STEP -/

/-- SCAN_STEP takes the pair at the head of RX (43_transport.md R182). -/
theorem scanPair {h l : Byte} {rest : List Byte} (hrx : s.rx = h :: l :: rest)
    (ht : QuietTo (State.busyAt { s with rx := rest } i (.scanMatch (pair h l))) t) :
    QuietTo (s.busyAt i .scanPop) t := by
  have hpop : scanPopStep (s.busyAt i .scanPop) = State.busyAt { s with rx := rest } i (.scanDecode ⟨h, l⟩) := by
    rw [scanPopStep, show (s.busyAt i .scanPop).rx = _ from hrx]
    rfl
  exact .receiveAt hi rfl hpop nofun (.receiveAt hi rfl rfl nofun ht)

/-- SCAN_STEP of the pending byte's pair stores the byte (43_transport.md R182). -/
theorem scanPending {h l : Byte} {rest : List Byte} (hrx : s.rx = h :: l :: rest) (hid : s.pendingId ≠ 0)
    (hpair : pair h l = s.pendingId)
    (ht : QuietTo
      (State.busyAt { s with rx := rest, respBuf := memWrite s.respBuf 0 [s.pendingId] } i .scanProbe) t) :
    QuietTo (s.busyAt i .scanPop) t := by
  refine .scanPair hi hrx ?_
  rw [hpair]
  refine .receiveAt hi (u := { s with rx := rest }) (ν := .scanStore s.pendingId) rfl (if_pos ⟨hid, rfl⟩) nofun ?_
  exact .receiveAt hi rfl rfl nofun ht

/-- SCAN_STEP of a pair that is not the pending byte's asks the table for it (43_transport.md R182, R183). -/
theorem scanOther {h l : Byte} {rest : List Byte} (hrx : s.rx = h :: l :: rest)
    (hother : s.pendingId = 0 ∨ pair h l ≠ s.pendingId)
    (ht : QuietTo (State.busyAt { s with rx := rest } i (.oobKnown (pair h l) (s.build.oobLen (pair h l)))) t) :
    QuietTo (s.busyAt i .scanPop) t := by
  have hno : ¬ (s.pendingId ≠ 0 ∧ pair h l = s.pendingId) := fun ⟨hid, hpair⟩ => hother.elim hid fun hne => hne hpair
  refine .scanPair hi hrx ?_
  refine .receiveAt hi (u := { s with rx := rest }) (ν := .oobLookup (pair h l)) rfl (if_neg hno) nofun ?_
  exact .receiveAt hi rfl rfl nofun ht

/-- SCAN_STEP of a known notification with all its pairs pushes its frame (43_transport.md R182, R183). -/
theorem scanNotification {chars rest : List Byte} (hn : s.isNotification chars) (hrx : s.rx = chars ++ rest)
    (ht : QuietTo
      (State.busyAt { s with rx := rest, ring := s.ring.push s.build.ringCapacity (decodePairs chars) } i
        (.scanned .oob)) t) :
    QuietTo (s.busyAt i .scanPop) t := by
  obtain ⟨h, l, payload, n, rfl, hother, hknown, hlen⟩ := hn
  refine .scanOther hi hrx hother ?_
  rw [hknown]
  refine .receiveAt hi (u := { s with rx := payload ++ rest }) rfl rfl nofun (.readStart hi ?_)
  exact .oobFull (s := { s with rx := payload ++ rest }) hi payload rfl (by simpa using hlen) ht

/-- SCAN_STEP of an id the table does not know discards RX and logs the id (43_transport.md R183). -/
theorem scanUnknown {h l : Byte} {rest : List Byte} (hrx : s.rx = h :: l :: rest)
    (hother : s.pendingId = 0 ∨ pair h l ≠ s.pendingId) (hunknown : s.build.oobLen (pair h l) = none)
    (ht : QuietTo ((s.rxDiscard.logEvent .unknownOob (pair h l)).busyAt i (.scanned .oob)) t) :
    QuietTo (s.busyAt i .scanPop) t := by
  refine .scanOther hi hrx hother ?_
  rw [hunknown]
  exact .receiveAt hi (u := { s with rx := rest }) (ν := .oobDiscard .unknownOob (pair h l)) rfl rfl nofun
    (.oobDrop hi ht)

/-- The RELEASE restore, with TX empty where it switches, and the end of the command (44_control.md R244). -/
theorem releaseOf (htx : s.release = true → s.tx = []) (st : Status) (data : List Byte) :
    QuietTo (s.busyAt i (.release st data)) (s.restored.answered st data) := by
  cases hrelease : s.release with
  | true => exact .release hi (htx hrelease) st data
  | false =>
    rw [State.restored, if_neg (Bool.eq_false_iff.mp hrelease)]
    refine .goAt (u := s) (ν := .finish st data) ?_ nofun (.finish st data)
    exact (microOf_release hi st data _).trans (if_neg (Bool.eq_false_iff.mp hrelease))

/-- CLEAR_PENDING, the RELEASE restore, and the end of the command (10_state.md R26, 43_transport.md R187). -/
theorem clearRelease (htx : s.release = true → s.tx = []) (st : Status) (data : List Byte) :
    QuietTo (s.busyAt i (.clear st data)) (s.clearPending.restored.answered st data) :=
  .receiveAt hi (u := s.clearPending) rfl rfl nofun (.releaseOf (s := s.clearPending) hi htx st data)

end QuietTo

end Sys2Proof.Machine
end

section
/-! GET_RESP: its passes, its endings, and its answer to a response in RX (43_transport.md R187). -/

namespace Sys2Proof.Machine

variable {s t : State} {cap : BitVec 16}

/-! ## Time, RESP_BUF and the capacity -/

/-- Where the clock stands no timeout but 0 is reached (00_scope.md R10). -/
theorem elapsed_self_lt (a : Time) {t : Time} (h : t ≠ 0) : a - a < t := by
  rw [BitVec.sub_self]
  exact (BitVec.pos_iff_ne_zero t).mpr h

theorem memWrite_zero_singleton {x : List Byte} (c : Byte) (h : x ≠ []) : memWrite x 0 [c] = c :: x.drop 1 := by
  obtain ⟨a, y, rfl⟩ := List.exists_cons_of_ne_nil h
  simp [memWrite]

theorem memWrite_one_cons (c : Byte) (buf bytes : List Byte) (h : bytes.length ≤ buf.length) :
    memWrite (c :: buf) 1 bytes = c :: bytes ++ buf.drop bytes.length := by
  simp [memWrite, Nat.add_comm 1, h]

theorem memRead_front (x y : List Byte) {n : Nat} (h : x.length = n) : memRead (x ++ y) 0 n = x := by
  simp [memRead, ← h]

/-- A capacity that fits a byte is the byte's value. -/
theorem capByte_toNat (h : cap.toNat ≤ 255) : (capByte cap).toNat = cap.toNat := by
  simp only [capByte, BitVec.extractLsb'_toNat, Nat.shiftRight_zero]
  omega

/-- A recorded capacity is one command byte and a payload of `cap - 1` bytes. -/
theorem capByte_toNat_eq_add_one (hne : cap ≠ 0) (h : cap.toNat ≤ 255) :
    (capByte cap).toNat = (cap.toNat - 1) + 1 := by
  have hpos : cap.toNat ≠ 0 := fun hz => hne (BitVec.eq_of_toNat_eq hz)
  rw [capByte_toNat h]
  omega

/-! ## The passes of the loop -/

/-- GET_RESP has sampled the clock, selected the device and recorded the capacity (43_transport.md R187). -/
def State.listening (s : State) (cap : BitVec 16) : State :=
  { s.timed.onSide .toDevice with expectedLen := capByte cap }

/-- At its first pass GET_RESP is due exactly if RESP_TIMEOUT_MS is 0 (43_transport.md R187). -/
theorem State.responseDue_listening (s : State) (cap : BitVec 16) :
    (s.listening cap).responseDue = decide (s.respTimeoutMs = 0) := by
  change decide (s.respTimeoutMs ≤ s.now - s.now) = _
  rw [BitVec.sub_self]
  simp

/-- GET_RESP's tests pass, TX is empty, and it comes to its loop with the capacity recorded (43_transport.md R187). -/
theorem quietTo_getResp_of_respLoop (htx : s.tx = []) (hid : s.pendingId ≠ 0) (hne : cap ≠ 0)
    (hle : cap.toNat ≤ s.build.maxResponseLen)
    (ht : QuietTo ((s.listening cap).busyAt (.getResp cap) .respLoop) t) :
    QuietTo (s.busyAt (.getResp cap) .start) t :=
  quietTo_getResp_of_switch hid (badCapacity_eq_false hne hle)
    (.switch (s := s.timed) htx nofun (.goAt (u := s.listening cap) rfl nofun ht))

/-- A pass of GET_RESP's loop with a pair in RX and no probe hit before scans it (43_transport.md R187). -/
theorem quietTo_getResp_of_scanPop (hm : s.matched = false) (hrx : 2 ≤ s.rx.length)
    (ht : QuietTo (s.busyAt (.getResp cap) .scanPop) t) : QuietTo (s.busyAt (.getResp cap) .respLoop) t :=
  .goAt (u := s) (ν := .scanPop) ((if_neg (Bool.eq_false_iff.mp hm)).trans (if_pos hrx)) nofun ht

/-- Behind a probe hit GET_RESP goes to the payload (43_transport.md R187). -/
theorem quietTo_getResp_of_payloadLen (hm : s.matched = true) (ht : QuietTo (s.busyAt (.getResp cap) .payloadLen) t) :
    QuietTo (s.busyAt (.getResp cap) .respLoop) t :=
  .goAt (u := s) (ν := .payloadLen) (if_pos hm) nofun ht

/-- A pass that decoded a notification, or dropped one, comes to the deadline test (43_transport.md R187). -/
theorem quietTo_getResp_of_oob (ht : QuietTo (s.busyAt (.getResp cap) (.respDeadline .oob)) t) :
    QuietTo (s.busyAt (.getResp cap) (.scanned .oob)) t :=
  .goAt (u := s) (ν := .respShort .oob) rfl nofun (.goAt (u := s) (ν := .respDeadline .oob) rfl nofun ht)

/-- Behind a notification, with the deadline not reached, GET_RESP goes on without waiting (43_transport.md R187). -/
theorem quietTo_getResp_again (hdue : s.responseDue = false) (ht : QuietTo (s.busyAt (.getResp cap) .respLoop) t) :
    QuietTo (s.busyAt (.getResp cap) (.respDeadline .oob)) t :=
  .goAt (u := s) (ν := .respYield .oob) (if_neg (Bool.eq_false_iff.mp hdue)) nofun
    (.goAt (u := s) (ν := .respLoop) rfl nofun ht)

/-! ## The endings -/

/-- GET_RESP's deadline has come: Timeout (43_transport.md R187). -/
theorem quietTo_getResp_timeout {r : ScanResult} (htx : s.release = true → s.tx = []) (hdue : s.responseDue = true) :
    QuietTo (s.busyAt (.getResp cap) (.respDeadline r)) (s.clearPending.restored.answered .timeout []) :=
  .goAt (u := s) (ν := .clear .timeout []) (if_pos hdue) nofun (.clearRelease (.inr ⟨cap, rfl⟩) htx _ _)

/-- GET_RESP with a response answers it (43_transport.md R187). -/
theorem quietTo_getResp_correlated (htx : s.release = true → s.tx = []) :
    QuietTo (s.busyAt (.getResp cap) (.scanned .correlated)) (s.clearPending.restored.answered .ok s.responseData) :=
  .goAt (u := s) (ν := .respCollect) rfl nofun
    (.goAt (u := s) (ν := .clear .ok s.responseData) rfl nofun (.clearRelease (.inr ⟨cap, rfl⟩) htx _ _))

/-- GET_RESP with a payload that ended early answers ResponseTooShort (43_transport.md R187). -/
theorem quietTo_getResp_tooShort (htx : s.release = true → s.tx = []) :
    QuietTo (s.busyAt (.getResp cap) (.scanned .tooShort)) (s.clearPending.restored.answered .responseTooShort []) :=
  .goAt (u := s) (ν := .respShort .tooShort) rfl nofun
    (.goAt (u := s) (ν := .clear .responseTooShort []) rfl nofun (.clearRelease (.inr ⟨cap, rfl⟩) htx _ _))

/-- Nothing to scan: Timeout if the deadline has come, else GET_RESP waits (43_transport.md R187). -/
theorem quietTo_getResp_nothing (htx : s.release = true → s.tx = []) (hm : s.matched = false)
    (hrx : s.rx.length < 2) :
    QuietTo (s.busyAt (.getResp cap) .respLoop)
      (if s.respTimeoutMs ≤ s.now - s.getT0 then s.clearPending.restored.answered .timeout []
       else s.busyAt (.getResp cap) (.wait .respLoop)) := by
  refine quietTo_getResp_of_nothing hm hrx ?_
  split
  next hdue => exact quietTo_getResp_timeout htx (decide_eq_true hdue)
  next hdue => exact quietTo_getResp_wait (decide_eq_false hdue)

/-- The payload's last bytes come into RESP_BUF behind the command byte, and GET_RESP answers both (43_transport.md
R184, R187). -/
theorem quietTo_getResp_response {c : Byte} {buf got rest : List Byte} {m : Nat} {t0 : Time} (front : List Byte)
    (hbuf : s.respBuf = c :: buf) (hm : m ≤ buf.length) (hlen : s.expectedLen.toNat = m + 1)
    (hrx : s.rx = front ++ rest) (hall : got.length + front.length = 2 * m) (htx : s.release = true → s.tx = []) :
    QuietTo (s.busyAt (.getResp cap) (.reading (2 * m) t0 got (.payload m)))
      ((State.restored
        { s with
          rx := rest
          respBuf := c :: decodePairs (got ++ front) ++ buf.drop m
          pendingId := 0
          expectedLen := 0
          matched := false }).answered .ok (s.expectedLen :: c :: decodePairs (got ++ front))) := by
  have hpairs : (decodePairs (got ++ front)).length = m := decodePairs_length_two_mul m _ (by simpa using hall)
  have hstore : memWrite s.respBuf 1 (decodePairs (got ++ front)) = c :: decodePairs (got ++ front) ++ buf.drop m := by
    rw [hbuf, memWrite_one_cons c buf _ (by omega), hpairs]
  have hdata : State.responseData { s with rx := rest, respBuf := memWrite s.respBuf 1 (decodePairs (got ++ front)) } =
      s.expectedLen :: c :: decodePairs (got ++ front) := by
    rw [State.responseData, hstore]
    exact congrArg _ (memRead_front _ _ (by rw [List.length_cons, hpairs, hlen]))
  have hanswer : QuietTo _ _ := quietTo_getResp_correlated (cap := cap)
    (s := { s with rx := rest, respBuf := memWrite s.respBuf 1 (decodePairs (got ++ front)) }) htx
  rw [hdata, hstore] at hanswer
  refine .payloadFull (.inr ⟨cap, rfl⟩) front hrx hall ?_
  rw [hstore]
  exact hanswer

/-- A pass that finds the pending byte's pair comes to the reading of the payload (43_transport.md R182, R184). -/
theorem quietTo_getResp_of_reading {h l : Byte} {rest : List Byte} {m : Nat} (hm : s.matched = false)
    (hrx : s.rx = h :: l :: rest) (hid : s.pendingId ≠ 0) (hpair : pair h l = s.pendingId)
    (hlen : s.expectedLen.toNat = m + 1)
    (ht : QuietTo
      (State.busyAt { s with rx := rest, respBuf := memWrite s.respBuf 0 [s.pendingId] } (.getResp cap)
        (.reading (2 * m) s.now [] (.payload m))) t) :
    QuietTo (s.busyAt (.getResp cap) .respLoop) t := by
  have hone : s.expectedLen ≠ 0 := fun hz => by simp [hz] at hlen
  refine quietTo_getResp_of_scanPop hm (by simp [hrx]) (.scanPending (.inr ⟨cap, rfl⟩) hrx hid hpair ?_)
  refine .receiveAt (.inr ⟨cap, rfl⟩) (ν := .payloadLen) rfl (if_neg hone) nofun ?_
  exact .payloadStart (.inr ⟨cap, rfl⟩) hlen ht

/-- A pass that finds the whole response in RX answers it (43_transport.md R182, R184, R187). -/
theorem quietTo_getResp_whole {h l : Byte} {chars rest : List Byte} {m : Nat} (hm : s.matched = false)
    (hrx : s.rx = h :: l :: (chars ++ rest)) (hid : s.pendingId ≠ 0) (hpair : pair h l = s.pendingId)
    (hlen : s.expectedLen.toNat = m + 1) (hbuf : m + 1 ≤ s.respBuf.length) (hchars : chars.length = 2 * m)
    (htx : s.release = true → s.tx = []) :
    QuietTo (s.busyAt (.getResp cap) .respLoop)
      ((State.restored
        { s with
          rx := rest
          respBuf := s.pendingId :: decodePairs chars ++ s.respBuf.drop (m + 1)
          pendingId := 0
          expectedLen := 0
          matched := false }).answered .ok (s.expectedLen :: s.pendingId :: decodePairs chars)) := by
  have hstore : memWrite s.respBuf 0 [s.pendingId] = s.pendingId :: s.respBuf.drop 1 :=
    memWrite_zero_singleton _ (List.ne_nil_of_length_pos (by omega))
  refine quietTo_getResp_of_reading hm hrx hid hpair hlen ?_
  have hread : QuietTo _ _ := quietTo_getResp_response (cap := cap) (got := []) (m := m) (t0 := s.now)
    (s := { s with rx := chars ++ rest, respBuf := memWrite s.respBuf 0 [s.pendingId] }) chars hstore
    (by rw [List.length_drop]; omega) hlen rfl (by simpa using hchars) htx
  rwa [List.drop_drop, Nat.add_comm 1 m, List.nil_append] at hread

/-! ## Notifications before the response -/

theorem State.isNotification.two_le_length {f : List Byte} (h : s.isNotification f) : 2 ≤ f.length := by
  obtain ⟨_, _, _, _, rfl, _⟩ := h
  simp

/-- A pass that finds a whole known notification pushes its frame and comes to the deadline test (43_transport.md R183,
R187). -/
theorem quietTo_getResp_notification {f rest : List Byte} (hm : s.matched = false) (hf : s.isNotification f)
    (hrx : s.rx = f ++ rest)
    (ht : QuietTo
      (State.busyAt { s with rx := rest, ring := s.ring.push s.build.ringCapacity (decodePairs f) } (.getResp cap)
        (.respDeadline .oob)) t) :
    QuietTo (s.busyAt (.getResp cap) .respLoop) t := by
  have htwo : 2 ≤ s.rx.length := by
    rw [hrx, List.length_append]
    exact Nat.le_add_right_of_le hf.two_le_length
  exact quietTo_getResp_of_scanPop hm htwo
    (.scanNotification (.inr ⟨cap, rfl⟩) hf hrx (quietTo_getResp_of_oob ht))

/-- As long as the deadline is not reached, GET_RESP decodes the notifications in RX one after the other
(43_transport.md R183, R187). -/
theorem quietTo_getResp_notifications {rest : List Byte} (notifs : List (List Byte)) (hm : s.matched = false)
    (hdue : s.responseDue = false) (hn : ∀ f ∈ notifs, s.isNotification f) (hrx : s.rx = notifs.flatten ++ rest)
    (ht : QuietTo
      (State.busyAt
        { s with rx := rest, ring := (notifs.map decodePairs).foldl (Ring.push s.build.ringCapacity) s.ring }
        (.getResp cap) .respLoop) t) :
    QuietTo (s.busyAt (.getResp cap) .respLoop) t := by
  induction notifs generalizing s with
  | nil =>
    have hs : { s with rx := rest } = s := State.withRx_self hrx
    exact hs ▸ ht
  | cons f notifs ih =>
    obtain ⟨hf, hn⟩ := List.forall_mem_cons.mp hn
    rw [List.flatten_cons, List.append_assoc] at hrx
    exact quietTo_getResp_notification hm hf hrx (quietTo_getResp_again hdue (ih hm hdue hn rfl ht))

/-! ## The statements -/

/-- Settles O26: GET_RESP's first tests go to the RELEASE restore. -/
theorem getRespRefusesInOrder : Obligations.GetRespRefusesInOrder := by
  intro s cap hready htx
  refine ⟨fun hid => ?noRequest, fun hid hcap => ?param⟩
  case noRequest =>
    exact exec_ready hready (quietTo_getResp_of_noRequest hid (.releaseOf (s := s.timed) (.inr ⟨cap, rfl⟩) htx _ _))
  case param =>
    have hbad : badCapacity s.build cap = true := decide_eq_true hcap
    exact exec_ready hready (quietTo_getResp_of_param hid hbad (.releaseOf (s := s.timed) (.inr ⟨cap, rfl⟩) htx _ _))

/-- Settles O27: one pass finds the response. -/
theorem getRespReturnsTheResponse : Obligations.GetRespReturnsTheResponse := by
  intro s cap h l chars tail hready htx hid hm hne hle hmax hbuf hrx hpair hchars
  have hlen := capByte_toNat_eq_add_one hne (Nat.le_trans hle hmax)
  have hcap : cap.toNat - 1 + 1 = cap.toNat := by rw [← hlen, capByte_toNat (Nat.le_trans hle hmax)]
  refine exec_ready hready (quietTo_getResp_of_respLoop htx hid hne hle ?_)
  have hwhole : QuietTo _ _ := quietTo_getResp_whole (s := s.listening cap) (cap := cap) hm hrx hid hpair hlen
    (by rw [hcap]; exact hbuf ▸ hle) hchars (fun _ => htx)
  rwa [hcap] at hwhole

/-- Settles O28: the payload is read behind the command byte that the probe stored. -/
theorem getRespGoesOnFromTheProbe : Obligations.GetRespGoesOnFromTheProbe := by
  intro s cap c buf chars tail hready htx hid hm hne hle hmax hbuf hsize hrx hchars
  have hlen := capByte_toNat_eq_add_one hne (Nat.le_trans hle hmax)
  have hcap : cap.toNat = cap.toNat - 1 + 1 := by rw [← hlen, capByte_toNat (Nat.le_trans hle hmax)]
  rw [hbuf, List.length_cons] at hsize
  refine exec_ready hready (quietTo_getResp_of_respLoop htx hid hne hle ?_)
  refine quietTo_getResp_of_payloadLen hm (.payloadStart (.inr ⟨cap, rfl⟩) hlen ?_)
  have hread : QuietTo _ _ := quietTo_getResp_response (s := s.listening cap) (cap := cap) (got := []) (t0 := s.now)
    chars hbuf (by omega) hlen hrx (by simpa using hchars) (fun _ => htx)
  rw [hcap, hbuf, List.drop_succ_cons]
  exact hread

/-- Settles O29: the notifications before the response take one pass each, and the deadline test behind the first of
them ends the command if the timeout is 0. -/
theorem notificationsBeforeAResponseGoToTheRing : Obligations.NotificationsBeforeAResponseGoToTheRing := by
  intro s cap notifs h l chars tail hready htx hid hm hne hle hmax hbuf hn hpair hchars hrx
  have hlen := capByte_toNat_eq_add_one hne (Nat.le_trans hle hmax)
  have hcap : cap.toNat - 1 + 1 = cap.toNat := by rw [← hlen, capByte_toNat (Nat.le_trans hle hmax)]
  refine ⟨fun htimeout => ?correlates, fun first more htimeout hfirst => ?timesOut⟩
  case correlates =>
    have hdue : (s.listening cap).responseDue = false :=
      (s.responseDue_listening cap).trans (decide_eq_false htimeout)
    refine exec_ready hready (quietTo_getResp_of_respLoop htx hid hne hle ?_)
    refine quietTo_getResp_notifications (s := s.listening cap) notifs hm hdue hn hrx ?_
    have hwhole : QuietTo _ _ := quietTo_getResp_whole (cap := cap)
      (s := { s.listening cap with
        rx := h :: l :: chars ++ tail
        ring := (notifs.map decodePairs).foldl (Ring.push s.build.ringCapacity) s.ring })
      hm rfl hid hpair hlen (by rw [hcap]; exact hbuf ▸ hle) hchars (fun _ => htx)
    rwa [hcap] at hwhole
  case timesOut =>
    subst hfirst
    have hdue : (s.listening cap).responseDue = true :=
      (s.responseDue_listening cap).trans (decide_eq_true htimeout)
    rw [List.flatten_cons, List.append_assoc] at hrx
    refine exec_ready hready (quietTo_getResp_of_respLoop htx hid hne hle ?_)
    refine quietTo_getResp_notification (s := s.listening cap) hm (hn first List.mem_cons_self) hrx ?_
    exact quietTo_getResp_timeout (fun _ => htx) hdue

/-- Settles O30: the first pass finds nothing, with the clock where GET_RESP sampled it. -/
theorem getRespWaitsForTheResponse : Obligations.GetRespWaitsForTheResponse := by
  intro s cap hready htx hid hm hne hle hrx
  have hpass {t : State} (ht : QuietTo ((s.listening cap).busyAt (.getResp cap) (.respDeadline .none)) t) :
      exec (.getResp cap) s = .next t :=
    exec_ready hready (quietTo_getResp_of_respLoop htx hid hne hle (quietTo_getResp_of_nothing hm hrx ht))
  refine ⟨fun htimeout => hpass ?timesOut, fun htimeout => hpass ?waits⟩
  case timesOut =>
    exact quietTo_getResp_timeout (fun _ => htx) ((s.responseDue_listening cap).trans (decide_eq_true htimeout))
  case waits => exact quietTo_getResp_wait ((s.responseDue_listening cap).trans (decide_eq_false htimeout))

/-- Settles O34: the read takes what there is, and the clock stands where it began. -/
theorem getRespReadsAShortPayload : Obligations.GetRespReadsAShortPayload := by
  intro s cap h l chars hready htx hid hm hne hle hmax hrx hpair hchars
  have hlen := capByte_toNat_eq_add_one hne (Nat.le_trans hle hmax)
  have hpass {t : State}
      (ht : QuietTo
        (State.busyAt { s.listening cap with rx := [], respBuf := memWrite s.respBuf 0 [s.pendingId] } (.getResp cap)
          (.reading (2 * (cap.toNat - 1)) s.now chars (.payload (cap.toNat - 1)))) t) :
      exec (.getResp cap) s = .next t :=
    exec_ready hready (quietTo_getResp_of_respLoop htx hid hne hle
      (quietTo_getResp_of_reading (s := s.listening cap) hm hrx hid hpair hlen
        (.readFront (.inr ⟨cap, rfl⟩) chars (List.append_nil chars).symm (by simpa using hchars.le) ht)))
  refine ⟨fun htimeout => hpass ?tooShort, fun htimeout => hpass ?waits⟩
  case tooShort =>
    have hlate : s.build.channelReadTimeoutMs ≤ s.now - s.now := by simp [htimeout]
    exact .payloadShort (.inr ⟨cap, rfl⟩) hchars rfl hlate (quietTo_getResp_tooShort fun _ => htx)
  case waits =>
    exact .readWait (.inr ⟨cap, rfl⟩) hchars rfl (elapsed_self_lt s.now htimeout)

end Sys2Proof.Machine
end

section
/-! POP_NOTIF: its scan, its probe hit and its pop (43_transport.md R188, 41_ring.md R141). -/

namespace Sys2Proof.Machine

variable {s t : State}

/-- POP_NOTIF in a session, with TX empty, selects the device and comes to its scan (43_transport.md R188). -/
theorem quietTo_popNotif_of_popMatched (htx : s.tx = []) (hconn : s.connected = true)
    (ht : QuietTo ((s.onSide .toDevice).busyAt .popNotif .popMatched) t) : QuietTo (s.busyAt .popNotif .start) t :=
  .goAt (u := s) (ν := switchTo .toDevice .popMatched) (if_pos hconn) nofun (.switch htx nofun ht)

theorem quietTo_popNotif_of_popLoop (hm : s.matched = false) (ht : QuietTo (s.busyAt .popNotif .popLoop) t) :
    QuietTo (s.busyAt .popNotif .popMatched) t :=
  .goAt (u := s) (ν := .popLoop) (if_neg (Bool.eq_false_iff.mp hm)) nofun ht

/-- POP_NOTIF scans a pair in RX (43_transport.md R188). -/
theorem quietTo_popNotif_of_scanPop (hrx : 2 ≤ s.rx.length) (ht : QuietTo (s.busyAt .popNotif .scanPop) t) :
    QuietTo (s.busyAt .popNotif .popLoop) t :=
  .goAt (u := s) (ν := .scanPop) (if_pos hrx) nofun ht

/-- With no pair left in RX POP_NOTIF goes on to the ring (43_transport.md R188). -/
theorem quietTo_popNotif_scanEnds (hrx : s.rx.length < 2) (ht : QuietTo (s.busyAt .popNotif .popRing) t) :
    QuietTo (s.busyAt .popNotif .popLoop) t :=
  .goAt (u := s) (ν := .popRing) (if_neg (Nat.not_le.mpr hrx)) nofun ht

/-- Behind a notification, decoded or dropped, POP_NOTIF scans on (43_transport.md R188). -/
theorem quietTo_popNotif_of_oob (ht : QuietTo (s.busyAt .popNotif .popLoop) t) :
    QuietTo (s.busyAt .popNotif (.scanned .oob)) t :=
  .goAt (u := s) (ν := .popLoop) rfl nofun ht

/-! ## The pop -/

/-- POP_NOTIF of an empty ring answers Empty (43_transport.md R188). -/
theorem quietTo_popNotif_popEmpty (hempty : s.ring.count = 0) (htx : s.release = true → s.tx = []) :
    QuietTo (s.busyAt .popNotif .popRing) (s.restored.answered .empty []) := by
  rcases popRingStep_cases (s.busyAt .popNotif .popRing) with ⟨_, hpop⟩ | ⟨hne, _⟩
  · exact .goAt (u := s) (ν := .popped none) hpop nofun
      (.goAt (u := s) (ν := .release .empty []) rfl nofun (.releaseOf (.inl rfl) htx _ _))
  · exact absurd hempty hne

/-- The ring behind RING_POP of a frame (41_ring.md R141). -/
theorem Ring.dropOldest_of_ne_zero {c : Nat} {r : Ring} (hne : r.count ≠ 0) :
    r.dropOldest c = { r with rd := (r.rd + 1) % c, count := r.count - 1 } := if_neg hne

/-- POP_NOTIF of a ring with frames drops the oldest and answers it behind its length (43_transport.md R188, 41_ring.md
R141). -/
theorem quietTo_popNotif_popOldest (hne : s.ring.count ≠ 0) (htx : s.release = true → s.tx = []) :
    QuietTo (s.busyAt .popNotif .popRing)
      ((State.restored
        { s with
          ring := { s.ring with rd := (s.ring.rd + 1) % s.build.ringCapacity, count := s.ring.count - 1 } }).answered
        .ok (BitVec.ofNat 8 (s.ring.slot s.ring.rd).frame.length :: (s.ring.slot s.ring.rd).frame)) := by
  rw [← Ring.dropOldest_of_ne_zero hne]
  rcases popRingStep_cases (s.busyAt .popNotif .popRing) with ⟨hempty, _⟩ | ⟨_, hpop⟩
  · exact absurd hempty hne
  · refine .goAt (u := { s with ring := s.ring.dropOldest s.build.ringCapacity })
      (ν := .popped (some (s.ring.slot s.ring.rd).frame)) hpop nofun ?_
    exact .goAt rfl nofun
      (.releaseOf (s := { s with ring := s.ring.dropOldest s.build.ringCapacity }) (.inl rfl) htx _ _)

/-! ## The scan -/

/-- POP_NOTIF decodes the notifications in RX one after the other (43_transport.md R183, R188). -/
theorem quietTo_popNotif_notifications {rest : List Byte} (notifs : List (List Byte))
    (hn : ∀ f ∈ notifs, s.isNotification f) (hrx : s.rx = notifs.flatten ++ rest)
    (ht : QuietTo
      (State.busyAt
        { s with rx := rest, ring := (notifs.map decodePairs).foldl (Ring.push s.build.ringCapacity) s.ring }
        .popNotif .popLoop) t) :
    QuietTo (s.busyAt .popNotif .popLoop) t := by
  induction notifs generalizing s with
  | nil =>
    have hs : { s with rx := rest } = s := State.withRx_self hrx
    exact hs ▸ ht
  | cons f notifs ih =>
    obtain ⟨hf, hn⟩ := List.forall_mem_cons.mp hn
    rw [List.flatten_cons, List.append_assoc] at hrx
    have htwo : 2 ≤ s.rx.length := by
      rw [hrx, List.length_append]
      exact Nat.le_add_right_of_le hf.two_le_length
    refine quietTo_popNotif_of_scanPop htwo (.scanNotification (.inl rfl) hf hrx ?_)
    exact quietTo_popNotif_of_oob (ih hn rfl ht)

/-- POP_NOTIF at the pending byte's pair, with no response length recorded, latches the match and goes on to the ring
(43_transport.md R182, R188). -/
theorem quietTo_popNotif_probeHit {h l : Byte} {rest : List Byte} (hlen : s.expectedLen = 0)
    (hrx : s.rx = h :: l :: rest) (hid : s.pendingId ≠ 0) (hpair : pair h l = s.pendingId)
    (ht : QuietTo
      (State.busyAt { s with rx := rest, respBuf := memWrite s.respBuf 0 [s.pendingId], matched := true } .popNotif
        .popRing) t) :
    QuietTo (s.busyAt .popNotif .popLoop) t := by
  refine quietTo_popNotif_of_scanPop (by simp [hrx]) (.scanPending (.inl rfl) hrx hid hpair ?_)
  refine .receiveAt (.inl rfl) (ν := .scanLatch) rfl (if_pos hlen) nofun (.receiveAt (.inl rfl) rfl rfl nofun ?_)
  exact .goAt (ν := .popRing) rfl nofun ht

/-! ## The statements -/

/-- Settles O36: without a session POP_NOTIF goes to the RELEASE restore. -/
theorem popNotifNeedsASession : Obligations.PopNotifNeedsASession := fun s hready hconn htx =>
  exec_ready hready (.goAt (u := s) (ν := .release .notConnected []) (if_neg (Bool.eq_false_iff.mp hconn)) nofun
    (.releaseOf (.inl rfl) htx _ _))

/-- Settles O37: no scan comes before the pop. -/
theorem popNotifReturnsTheOldestFrame : Obligations.PopNotifReturnsTheOldestFrame := by
  intro s hready htx hconn hscan
  have hpass {t : State} (ht : QuietTo ((s.onSide .toDevice).busyAt .popNotif .popRing) t) :
      exec .popNotif s = .next t :=
    exec_ready hready
      (quietTo_popNotif_of_popMatched htx hconn (quietTo_popNotif_of_popRing (s := s.onSide .toDevice) hscan ht))
  exact ⟨fun hempty => hpass (quietTo_popNotif_popEmpty hempty fun _ => htx),
    fun hne => hpass (quietTo_popNotif_popOldest hne fun _ => htx)⟩

/-- Settles O38: the scan decodes the notifications, and ends where no pair is left. -/
theorem popNotifDecodesWhatArrived : Obligations.PopNotifDecodesWhatArrived := by
  intro s notifs tail r hready htx hconn hm hn hrx htail hr
  subst hr
  have hpass {t : State}
      (ht : QuietTo
        (State.busyAt
          { s.onSide .toDevice with
            rx := tail
            ring := (notifs.map decodePairs).foldl (Ring.push s.build.ringCapacity) s.ring } .popNotif .popRing) t) :
      exec .popNotif s = .next t := by
    refine exec_ready hready (quietTo_popNotif_of_popMatched htx hconn ?_)
    refine quietTo_popNotif_of_popLoop hm (quietTo_popNotif_notifications (s := s.onSide .toDevice) notifs hn hrx ?_)
    exact quietTo_popNotif_scanEnds htail ht
  exact ⟨fun hempty => hpass (quietTo_popNotif_popEmpty hempty fun _ => htx),
    fun hne => hpass (quietTo_popNotif_popOldest hne fun _ => htx)⟩

/-- Settles O39: the probe hit ends the scan, and the pop follows. -/
theorem popNotifProbeLatchesTheMatch : Obligations.PopNotifProbeLatchesTheMatch := by
  intro s h l rest hready htx hconn hm hlen hid hrx hpair hbuf u
  have hpass {t : State} (ht : QuietTo (u.busyAt .popNotif .popRing) t) : exec .popNotif s = .next t := by
    refine exec_ready hready (quietTo_popNotif_of_popMatched htx hconn (quietTo_popNotif_of_popLoop hm ?_))
    refine quietTo_popNotif_probeHit (s := s.onSide .toDevice) hlen hrx hid hpair ?_
    have hstore : memWrite (s.onSide .toDevice).respBuf 0 [(s.onSide .toDevice).pendingId] =
        s.pendingId :: s.respBuf.drop 1 := memWrite_zero_singleton s.pendingId hbuf
    rw [hstore]
    exact ht
  exact ⟨fun hempty => hpass (quietTo_popNotif_popEmpty (s := u) hempty fun _ => htx),
    fun hne => hpass (quietTo_popNotif_popOldest (s := u) hne fun _ => htx)⟩

/-- Settles O40: the discard leaves nothing to scan, so POP_NOTIF pops, and GET_RESP comes to its deadline
test. -/
theorem unknownIdsDiscardRx : Obligations.UnknownIdsDiscardRx := by
  intro s h l rest hready htx hm hother hunknown hrx t u
  have hpop (hconn : s.connected = true) {v : State} (hv : QuietTo (u.busyAt .popNotif .popRing) v) :
      exec .popNotif s = .next v := by
    refine exec_ready hready (quietTo_popNotif_of_popMatched htx hconn (quietTo_popNotif_of_popLoop hm ?_))
    refine quietTo_popNotif_of_scanPop (s := t) (by simp [t, State.onSide, hrx]) ?_
    refine .scanUnknown (s := t) (.inl rfl) hrx hother hunknown (quietTo_popNotif_of_oob ?_)
    exact quietTo_popNotif_scanEnds (s := u) Nat.zero_lt_two hv
  have hresp {cap : BitVec 16} (hid : s.pendingId ≠ 0) (hne : cap ≠ 0) (hle : cap.toNat ≤ s.build.maxResponseLen)
      {v : State}
      (hv : QuietTo
        (State.busyAt { u with getT0 := s.now, expectedLen := capByte cap } (.getResp cap) (.respDeadline .oob)) v) :
      exec (.getResp cap) s = .next v := by
    refine exec_ready hready (quietTo_getResp_of_respLoop htx hid hne hle ?_)
    refine quietTo_getResp_of_scanPop (s := s.listening cap) hm ?_ ?_
    · change 2 ≤ s.rx.length
      simp [hrx]
    · exact .scanUnknown (s := s.listening cap) (.inr ⟨cap, rfl⟩) hrx hother hunknown (quietTo_getResp_of_oob hv)
  refine ⟨fun hconn hempty => hpop hconn (quietTo_popNotif_popEmpty (s := u) hempty fun _ => htx),
    fun hconn hne => hpop hconn (quietTo_popNotif_popOldest (s := u) hne fun _ => htx),
    fun cap hid hne hle => ⟨fun htimeout => hresp hid hne hle ?timesOut, fun htimeout => hresp hid hne hle ?waits⟩⟩
  case timesOut =>
    exact quietTo_getResp_timeout (s := { u with getT0 := s.now, expectedLen := capByte cap }) (fun _ => htx)
      ((s.responseDue_listening cap).trans (decide_eq_true htimeout))
  case waits =>
    have hdue : (s.listening cap).responseDue = false :=
      (s.responseDue_listening cap).trans (decide_eq_false htimeout)
    refine quietTo_getResp_again hdue (quietTo_getResp_of_nothing hm Nat.zero_lt_two ?_)
    exact quietTo_getResp_wait (s := { u with getT0 := s.now, expectedLen := capByte cap }) hdue

end Sys2Proof.Machine
end

section
/-! GET_RESP and POP_NOTIF at their Waits: what a tick of the clock and a byte that arrives let them do (43_transport.md
R180-R184, R187, R188, R192). -/

namespace Sys2Proof.Machine

/-! ## GET_RESP's wait for the response -/

/-- A byte that arrives lets GET_RESP, waiting with fewer than two bytes in RX, go on with it behind them
(43_transport.md R187). -/
theorem step_respLoop_arrive {s t : State} {cap : BitVec 16} {b : Byte} {front : List Byte} {rest : List Input}
    (hp : s.phase = .busy (.getResp cap) (.wait .respLoop)) (hi : s.inputs = .arrive s.dir b :: rest)
    (hq : QuietInputs s.source rest) (hdepth : 2 ≤ s.build.rxFifoDepth) (hrx : s.rx = front) (hfew : front.length < 2)
    (ht : QuietTo ((s.received (front ++ [b]) rest).busyAt (.getResp cap) .respLoop) t) : step s = .next t := by
  subst hrx
  exact step_arrive_wait hp hi hq (hfew.trans_le hdepth) rfl nofun ht

/-- Settles O31: the tick's deadline test, and the pass behind an arrival. -/
theorem getRespTimesOutAtItsDeadline : Obligations.GetRespTimesOutAtItsDeadline := by
  refine ⟨fun s cap ms rest hp hi hq hm hrx htx => ?ticks, fun s cap b rest hp hi hq hm hdepth hearly =>
    ⟨fun hrx => ?firstByte, fun h hrx hid hpair => ⟨fun hlen hbuf htx => ?response, fun hlen htimeout => ?payloadWaits⟩,
      fun h hrx hn => ?notification⟩⟩
  case ticks =>
    have hpass := quietTo_getResp_nothing (s := s.ticked ms rest) (cap := cap) htx hm hrx
    rw [State.busyAt_of_phase (s := s.ticked ms rest) hp] at hpass
    exact step_tick_wait hp hi hq nofun hpass
  all_goals have hdue : s.responseDue = false := decide_eq_false (BitVec.not_le.mpr hearly)
  case firstByte =>
    refine step_respLoop_arrive hp hi hq hdepth hrx Nat.zero_lt_two ?_
    refine .staysAt (t := s.received [b] rest) hp (quietTo_getResp_of_nothing hm Nat.one_lt_two ?_)
    exact quietTo_getResp_wait (s := s.received [b] rest) hdue
  case response =>
    have hone : s.expectedLen.toNat = 0 + 1 := by rw [hlen]; rfl
    have hpass : QuietTo _ _ := quietTo_getResp_whole (s := s.received [h, b] rest) (cap := cap) (chars := []) hm rfl
      hid hpair hone (List.length_pos_iff.mpr hbuf) rfl htx
    rw [show (s.received [h, b] rest).expectedLen = 1 from hlen] at hpass
    exact step_respLoop_arrive hp hi hq hdepth hrx Nat.one_lt_two hpass
  case payloadWaits =>
    refine step_respLoop_arrive hp hi hq hdepth hrx Nat.one_lt_two ?_
    refine quietTo_getResp_of_reading (s := s.received [h, b] rest) (m := s.expectedLen.toNat - 1) hm rfl hid hpair
      (Nat.sub_add_cancel hlen.le).symm ?_
    have hsome : 0 < 2 * (s.expectedLen.toNat - 1) := Nat.mul_pos Nat.zero_lt_two (Nat.sub_pos_of_lt hlen)
    exact .readWait (.inr ⟨cap, rfl⟩) hsome rfl (elapsed_self_lt s.now htimeout)
  case notification =>
    refine step_respLoop_arrive hp hi hq hdepth hrx Nat.one_lt_two ?_
    refine quietTo_getResp_notification (s := s.received [h, b] rest) (f := [h, b]) hm hn rfl ?_
    refine quietTo_getResp_again hdue (quietTo_getResp_of_nothing hm Nat.zero_lt_two ?_)
    exact .staysAt hp (quietTo_getResp_wait hdue)

/-! ## A read's wait for bytes -/

section

variable {s t : State} {i : Instr} {n : Nat} {t0 : Time} {got : List Byte} {k : Reader} {rest : List Input}

/-- At a tick a waiting read ends if CHANNEL_READ_TIMEOUT_MS has passed, and else waits on (43_transport.md R180). -/
theorem step_reading_tick {ms : Time} (hcmd : i = .popNotif ∨ ∃ cap, i = .getResp cap)
    (hp : s.phase = .busy i (.wait (.reading n t0 got k))) (hi : s.inputs = .tick ms :: rest)
    (hq : QuietInputs s.source rest) (hrx : s.rx = []) (hlt : got.length < n)
    (hlate : s.build.channelReadTimeoutMs ≤ s.now + ms - t0 →
      QuietTo ((s.ticked ms rest).busyAt i (.reading n t0 got k)) t) :
    step s = .next
      (if s.build.channelReadTimeoutMs ≤ s.now + ms - t0 then t
       else { s with now := s.now + ms, inputs := rest }) := by
  refine step_tick_wait hp hi hq nofun ?_
  split
  next h => exact hlate h
  next h =>
    have hearly : s.now + ms - t0 < s.build.channelReadTimeoutMs := BitVec.not_le.mp h
    exact .staysAt hp (.readWait (s := s.ticked ms rest) hcmd hlt hrx hearly)

/-- At an arrival a waiting read goes on with the byte in RX (43_transport.md R180). -/
theorem step_reading_arrive {b : Byte} (hp : s.phase = .busy i (.wait (.reading n t0 got k)))
    (hi : s.inputs = .arrive s.dir b :: rest) (hq : QuietInputs s.source rest) (hrx : s.rx = [])
    (hdepth : 1 ≤ s.build.rxFifoDepth)
    (ht : QuietTo ((s.received ([b] ++ s.rx) rest).busyAt i (.reading n t0 got k)) t) : step s = .next t :=
  step_arrive_wait hp hi hq (by rw [hrx]; exact hdepth) (by rw [hrx]; rfl) nofun ht

/-- A waiting read that needs more than the byte that arrives takes it, and waits on (43_transport.md R180). -/
theorem step_reading_more {b : Byte} (hcmd : i = .popNotif ∨ ∃ cap, i = .getResp cap)
    (hp : s.phase = .busy i (.wait (.reading n t0 got k))) (hi : s.inputs = .arrive s.dir b :: rest)
    (hq : QuietInputs s.source rest) (hrx : s.rx = []) (hdepth : 1 ≤ s.build.rxFifoDepth)
    (hearly : s.now - t0 < s.build.channelReadTimeoutMs) (hmore : got.length + 1 < n) :
    step s = .next { s with inputs := rest, phase := .busy i (.wait (.reading n t0 (got ++ [b]) k)) } := by
  refine step_reading_arrive hp hi hq hrx hdepth (.readFront hcmd [b] rfl hmore.le ?_)
  exact .readWait (s := { s with inputs := rest }) hcmd (by simpa using hmore) hrx hearly

end

theorem Ring.push_count_ne_zero (c : Nat) (r : Ring) (f : List Byte) : (r.push c f).count ≠ 0 := by
  rcases r.push_rd_count c f with ⟨_, _, hcount⟩ | ⟨_, _, hcount⟩ <;> rw [hcount] <;> exact Nat.succ_ne_zero _

/-- Settles O33: what ends each read, at the tick that is late enough or with the last byte. -/
theorem shortReadsEndAtTheChannelTimeout : Obligations.ShortReadsEndAtTheChannelTimeout := by
  refine ⟨?payloadTick, ?popTick, ?respTick, fun s cap n m t b got rest hp hi hq hrx hdepth hn hearly => ?payloadByte,
    fun s n e c t b got rest r hp hi hq hrx hdepth hn hearly hr => ?popByte⟩
  case payloadTick =>
    intro s cap n m t ms got rest hp hi hq hrx hn hlt htx
    subst hn
    refine step_reading_tick (.inr ⟨cap, rfl⟩) hp hi hq hrx hlt fun hlate => ?_
    exact .payloadShort (s := s.ticked ms rest) (.inr ⟨cap, rfl⟩) hlt hrx hlate (quietTo_getResp_tooShort htx)
  case popTick =>
    intro s n e c t ms got rest hp hi hq hrx hn hlt htx u
    subst hn
    refine step_reading_tick (.inl rfl) hp hi hq hrx hlt fun hlate => ?_
    refine .oobShort (s := s.ticked ms rest) (.inl rfl) hlt hrx hlate (quietTo_popNotif_of_oob ?_)
    refine quietTo_popNotif_scanEnds (s := u) (by simp [u, hrx]) ?_
    split
    next hempty => exact quietTo_popNotif_popEmpty (s := u) hempty htx
    next hne => exact quietTo_popNotif_popOldest (s := u) hne htx
  case respTick =>
    intro s cap n e c t ms got rest hp hi hq hrx hn hlt hm htx u
    subst hn
    refine step_reading_tick (.inr ⟨cap, rfl⟩) hp hi hq hrx hlt fun hlate => ?_
    refine .oobShort (s := s.ticked ms rest) (.inr ⟨cap, rfl⟩) hlt hrx hlate (quietTo_getResp_of_oob ?_)
    split
    next hdue => exact quietTo_getResp_timeout (s := u) htx (decide_eq_true hdue)
    next hdue =>
      have hnotDue : u.responseDue = false := decide_eq_false hdue
      refine quietTo_getResp_again hnotDue (quietTo_getResp_of_nothing (s := u) hm (by simp [u, hrx]) ?_)
      exact quietTo_getResp_wait (s := u) hnotDue
  case payloadByte =>
    subst hn
    refine ⟨step_reading_more (.inr ⟨cap, rfl⟩) hp hi hq hrx hdepth hearly, fun c buf hlast hbuf hm hlen htx => ?_⟩
    exact step_reading_arrive hp hi hq hrx hdepth
      (quietTo_getResp_response (s := s.received ([b] ++ s.rx) rest) [b] hbuf hm hlen rfl hlast htx)
  case popByte =>
    subst hn hr
    refine ⟨step_reading_more (.inl rfl) hp hi hq hrx hdepth hearly, fun hlast htx => ?_⟩
    refine step_reading_arrive hp hi hq hrx hdepth (.oobFull (.inl rfl) [b] rfl hlast (quietTo_popNotif_of_oob ?_))
    refine quietTo_popNotif_scanEnds (by simp [hrx]) ?_
    exact quietTo_popNotif_popOldest
      (s := { s with
        inputs := rest
        ring := s.ring.push s.build.ringCapacity (c :: decodePairs (got ++ [b])) }) (Ring.push_count_ne_zero _ _ _) htx

end Sys2Proof.Machine
end

section
/-! What SEND_REQ and GET_RESP go on to, and from where: the position behind the spacing loop and the Timeout outcome
have one way in, and a pending request one way out (43_transport.md R190, R192). -/

namespace Sys2Proof.Machine

variable {s : State} {i j : Instr} {μ ν κ : Micro}

/-! ## Where a micro-step goes on -/

theorem State.eq_of_goto_phase (h : (s.goto ν).phase = .busy j κ) (hp : s.phase = .busy i μ) : ν = κ := by
  rw [State.goto_phase, hp, Phase.moveTo_busy] at h
  exact (Phase.busy.inj h).2

/-- The micro-steps of Wait, SWITCH, TxPush and finish go on towards the position they return to (42_arbiter.md R160,
20_memory.md R70). -/
theorem baseStep_leaf (hp : s.phase = .busy i μ) (h : (baseStep μ s).phase = .busy j ν) : ν.leaf = μ.leaf := by
  cases μ with
  | wait back => exact State.eq_of_goto_phase h hp ▸ rfl
  | flush d next =>
    rcases flushStep_cases d next s with ⟨_, he⟩ | ⟨_, he⟩ <;> rw [baseStep, he] at h <;>
      exact State.eq_of_goto_phase h hp ▸ rfl
  | steer d next => exact State.eq_of_goto_phase h ((s.steer_phase d).trans hp) ▸ rfl
  | push bytes next =>
    rcases pushStep_cases bytes next s with ⟨_, he⟩ | ⟨_, _, _, _, he⟩ | ⟨b, rest, _, _, he⟩ <;>
      rw [baseStep, he] at h <;> exact State.eq_of_goto_phase h hp ▸ rfl
  | finish st data => cases h
  | _ => exact State.eq_of_goto_phase h hp ▸ rfl

/-- PAYLOAD_READ, RX_READ and the RELEASE restore do not go on to CLEAR_PENDING (43_transport.md R180, R184, R187). -/
theorem payloadStep_leaf_of_clear {st : Status} {data : List Byte} (hp : s.phase = .busy i μ)
    (h : (payloadStep μ s).phase = .busy j (.clear st data)) : μ.leaf = .clear st data := by
  cases μ with
  | readStart n k => cases State.eq_of_goto_phase h hp
  | readInit n t k => cases State.eq_of_goto_phase h hp
  | reading n t got k =>
    rcases readStep_cases n t got k s with ⟨_, he⟩ | ⟨_, _, _, _, he⟩ | ⟨_, _, _, he⟩ | ⟨_, _, _, he⟩ <;>
      rw [payloadStep, he] at h <;> cases State.eq_of_goto_phase h hp
  | readDone got k =>
    rcases readDoneStep_cases got k s with
      ⟨_, _, _, he⟩ | ⟨_, _, _, he⟩ | ⟨_, _, _, _, he⟩ | ⟨_, _, _, _, he⟩ <;>
      rw [payloadStep, he] at h <;> cases State.eq_of_goto_phase h hp
  | payloadLen => cases State.eq_of_goto_phase h hp
  | payloadStore bytes => cases State.eq_of_goto_phase h hp
  | payloadDiscard => cases State.eq_of_goto_phase h hp
  | release st data => dsimp only [payloadStep] at h; split at h <;> cases State.eq_of_goto_phase h hp
  | clear st data => cases State.eq_of_goto_phase h hp
  | _ => exact (baseStep_leaf hp h).symm

/-- No receiving routine goes on to CLEAR_PENDING (43_transport.md R180-R184). -/
theorem receiveStep_leaf_of_clear {st : Status} {data : List Byte} (hp : s.phase = .busy i μ)
    (h : (receiveStep μ s).phase = .busy j (.clear st data)) : μ.leaf = .clear st data := by
  cases μ with
  | scanPop =>
    rcases scanPopStep_cases s with ⟨_, _, _, _, he⟩ | ⟨_, he⟩ <;> rw [receiveStep, he] at h <;>
      cases State.eq_of_goto_phase h hp
  | scanDecode p => cases State.eq_of_goto_phase h hp
  | scanMatch c => dsimp only [receiveStep] at h; split at h <;> cases State.eq_of_goto_phase h hp
  | scanStore c => cases State.eq_of_goto_phase h hp
  | scanProbe => dsimp only [receiveStep] at h; split at h <;> cases State.eq_of_goto_phase h hp
  | scanLatch => cases State.eq_of_goto_phase h hp
  | oobLookup c => cases State.eq_of_goto_phase h hp
  | oobKnown c e =>
    rcases oobKnownStep_cases c e s with ⟨_, he⟩ | ⟨_, _, he⟩ <;> rw [receiveStep, he] at h <;>
      cases State.eq_of_goto_phase h hp
  | oobDiscard kind c => cases State.eq_of_goto_phase h hp
  | oobLog kind c => cases State.eq_of_goto_phase h hp
  | oobPush f => cases State.eq_of_goto_phase h hp
  | _ => exact payloadStep_leaf_of_clear hp h

/-! ## SEND_REQ and GET_RESP -/

/-- SEND_REQ comes to the recording of its request from its spacing test alone (43_transport.md R186). -/
theorem microSendReq_setPending {flags : Byte} {bytes : List Byte} (hp : s.phase = .busy i μ)
    (h : (microSendReq flags bytes μ s).phase = .busy j .setPending) :
    μ.leaf = .setPending ∨ (μ = .spacing ∧ s.mustSpace = false) := by
  cases μ with
  | start =>
    dsimp only [microSendReq] at h
    split at h
    · cases State.eq_of_goto_phase h hp
    · cases h
  | sendBusy =>
    dsimp only [microSendReq] at h
    split at h
    · cases h
    · cases State.eq_of_goto_phase h hp
  | sendParam =>
    dsimp only [microSendReq] at h
    split at h
    · cases h
    · cases State.eq_of_goto_phase h hp
  | spacing =>
    dsimp only [microSendReq] at h
    split at h
    · cases State.eq_of_goto_phase h hp
    · exact .inr ⟨rfl, Bool.eq_false_iff.mpr ‹_›⟩
  | setPending => exact .inl rfl
  | clearLen => cases State.eq_of_goto_phase h hp
  | clearMatched => cases State.eq_of_goto_phase h hp
  | stampTime => cases State.eq_of_goto_phase h hp
  | stampValid => cases State.eq_of_goto_phase h hp
  | _ => exact .inl (baseStep_leaf hp h).symm

/-- GET_RESP comes to the clearing of its request with Timeout from its deadline test alone (43_transport.md R187). -/
theorem microGetResp_timeout {cap : BitVec 16} {data : List Byte} (hp : s.phase = .busy i μ)
    (h : (microGetResp cap μ s).phase = .busy j (.clear .timeout data)) :
    μ.leaf = .clear .timeout data ∨ ((∃ r, μ = .respDeadline r) ∧ s.responseDue = true) := by
  cases μ with
  | start => cases State.eq_of_goto_phase h hp
  | respPending => dsimp only [microGetResp] at h; split at h <;> cases State.eq_of_goto_phase h hp
  | respCap => dsimp only [microGetResp] at h; split at h <;> cases State.eq_of_goto_phase h hp
  | respLen => cases State.eq_of_goto_phase h hp
  | respLoop =>
    dsimp only [microGetResp] at h
    split at h
    · cases State.eq_of_goto_phase h hp
    · split at h <;> cases State.eq_of_goto_phase h hp
  | scanned r => dsimp only [microGetResp] at h; split at h <;> cases State.eq_of_goto_phase h hp
  | respCollect => cases State.eq_of_goto_phase h hp
  | respShort r => dsimp only [microGetResp] at h; split at h <;> cases State.eq_of_goto_phase h hp
  | respDeadline r =>
    dsimp only [microGetResp] at h
    split at h
    · exact .inr ⟨⟨r, rfl⟩, ‹_›⟩
    · cases State.eq_of_goto_phase h hp
  | respYield r => dsimp only [microGetResp] at h; split at h <;> cases State.eq_of_goto_phase h hp
  | _ => exact .inl (receiveStep_leaf_of_clear hp h)

/-- PENDING_ID is written by CLEAR_PENDING and by SEND_REQ's recording of its request only (10_state.md R23). -/
theorem MicroEffect.pendingId_cases {t : State} (h : MicroEffect i μ s t) :
    t.pendingId = s.pendingId ∨ (t.pendingId = 0 ∧ ∃ st data, μ = .clear st data) ∨ μ = .setPending := by
  cases h with
  | clearPending st data ν => exact .inr (.inl ⟨rfl, st, data, rfl⟩)
  | setPending flags bytes ν => exact .inr (.inr rfl)
  | steer d next => exact .inl (State.steer_pendingId s d)
  | _ => exact .inl rfl

/-! ## The statements -/

/-- Settles O25: the spacing test passes only where the spacing has passed. -/
theorem requestsAreNeverEarly : Obligations.RequestsAreNeverEarly := by
  intro s flags bytes μ hp hleaf h hvalid
  rw [seqStep_busy s _ μ hp] at h
  rcases microSendReq_setPending hp h with hsame | ⟨_, hspaced⟩
  · exact absurd hsame hleaf
  · simpa [State.mustSpace, hvalid] using hspaced

/-- Settles O32: the deadline test passes only where the deadline has come. -/
theorem timeoutIsNeverEarly : Obligations.TimeoutIsNeverEarly := by
  intro s cap μ data hp hleaf h
  rw [seqStep_busy s _ μ hp] at h
  rcases microGetResp_timeout hp h with hsame | ⟨_, hdue⟩
  · exact absurd hsame (hleaf _ _)
  · exact of_decide_eq_true hdue

/-- Settles O35: SEND_REQ records a request only at a sound position, where none is pending. -/
theorem aPendingRequestIsOnlyCleared : Obligations.APendingRequestIsOnlyCleared := by
  intro s e hinv hid hne
  cases e with
  | seq =>
    rcases seqStep_cases s with ⟨_, hidle⟩ | ⟨i, μ, hp, heffect⟩
    · exact absurd (congrArg State.pendingId hidle) hne
    · rcases heffect.pendingId_cases with hsame | ⟨hzero, st, data, rfl⟩ | rfl
      · exact absurd hsame hne
      · exact ⟨hzero, .inr ⟨rfl, i, st, data, hp⟩⟩
      · obtain ⟨-, -, hnone, -⟩ := hinv.position i .setPending hp
        exact absurd (hnone (.inr (.inr rfl))) hid
  | reset => exact ⟨rfl, .inl rfl⟩
  | _ => simp [State.move] at hne

end Sys2Proof.Machine
end

section
/-! The configuration space: the index of each register, the words a read answers, and the two commands
(44_control.md R240-R248). -/

namespace Sys2Proof.Machine

variable {s w : State} {idx : CfgIndex} {v : CfgWord} {r : CfgReg}

/-! ## The indices -/

/-- The index of a register (44_control.md R240). -/
def CfgReg.index : CfgReg → CfgIndex
  | .status => 0x0000
  | .respTimeoutMs => 0x0001
  | .reqDelayMs => 0x0002
  | .ctrl => 0x0003
  | .ringCapacity => 0x0004
  | .maxResponseLen => 0x0005
  | .maxRequestLen => 0x0006
  | .maxOobPayload => 0x0007
  | .channelReadTimeoutMs => 0x0008
  | .oobLen c => 0x0100 + c.setWidth 16

theorem CfgReg.toNat_index_oobLen (c : Byte) : (CfgReg.oobLen c).index.toNat = 0x0100 + c.toNat := by
  unfold CfgReg.index
  bv_omega

theorem cfgReg_of_oobLen_range (hlow : 0x0100 ≤ idx.toNat) (hhigh : idx.toNat ≤ 0x01FF) :
    cfgReg idx = some (.oobLen (BitVec.ofNat 8 (idx.toNat - 0x0100))) := by
  unfold cfgReg
  split
  case h_10 => exact if_pos ⟨hlow, hhigh⟩
  all_goals omega

theorem cfgReg_index (r : CfgReg) : cfgReg r.index = some r := by
  cases r with
  | oobLen c =>
    have hindex := CfgReg.toNat_index_oobLen c
    rw [cfgReg_of_oobLen_range (by omega) (by omega), hindex, Nat.add_sub_cancel_left, BitVec.ofNat_toNat,
      BitVec.setWidth_eq]
  | _ => rfl

/-- An assigned index is its register's (44_control.md R240). -/
theorem eq_index_of_cfgReg (h : cfgReg idx = some r) : idx = r.index := by
  apply BitVec.eq_of_toNat_eq
  unfold cfgReg at h
  split at h
  case h_10 =>
    split at h
    · cases h
      rw [CfgReg.toNat_index_oobLen, BitVec.toNat_ofNat]
      omega
    · cases h
  all_goals cases h; assumption

theorem CfgReg.toNat_index_range (r : CfgReg) :
    r.index.toNat ≤ 0x0008 ∨ (0x0100 ≤ r.index.toNat ∧ r.index.toNat ≤ 0x01FF) := by
  cases r with
  | oobLen c => have := CfgReg.toNat_index_oobLen c; omega
  | _ => exact .inl (by decide)

theorem cfgReg_eq_none (h : (0x0009 ≤ idx ∧ idx ≤ 0x00FF) ∨ 0x0200 ≤ idx) : cfgReg idx = none := by
  refine Option.eq_none_iff_forall_ne_some.mpr fun r hr => ?_
  have hrange := eq_index_of_cfgReg hr ▸ r.toNat_index_range
  bv_omega

/-! ## The words -/

theorem oobLenWord_of_known {b : Build} {c : Byte} {e : Nat} (h : b.oobLen c = some e) :
    oobLenWord b c = be32 0 0 1 (countByte e) := by
  rw [oobLenWord, h]
  simp only [be32, BitVec.append_def, BitVec.shiftLeftZeroExtend_eq]
  rfl

/-- OOB_LEN[c] as the host reads it (44_control.md R246). -/
theorem be32Bytes_oobLenWord (b : Build) (c : Byte) :
    be32Bytes (oobLenWord b c) =
      match b.oobLen c with
      | none => [0, 0, 0, 0]
      | some e => [0, 0, 1, BitVec.ofNat 8 e] := by
  cases h : b.oobLen c with
  | none => rw [oobLenWord, h]; rfl
  | some e => rw [oobLenWord_of_known h, be32Bytes_be32]; rfl

/-- CTRL as the host reads it (44_control.md R244). -/
theorem State.be32Bytes_ctrlWord (s : State) : be32Bytes s.ctrlWord = [0, 0, 0, if s.release then 1 else 0] := by
  rw [State.ctrlWord]
  cases s.release <;> rfl

theorem getLsbD_flagBit (b : Bool) {j k : Nat} (hj : j < 32) : (flagBit b k).getLsbD j = (b && decide (j = k)) := by
  cases b with
  | false => simp [flagBit]
  | true =>
    simp only [flagBit, if_true, BitVec.getLsbD_shiftLeft, BitVec.getLsbD_one, hj]
    by_cases h : j = k
    · simp [h]
    · have hshift : k ≤ j → j - k ≠ 0 := by omega
      simpa [h] using hshift

/-- Bit `j` of STATUS: a flag, or a bit of one of the two fields above the flags (44_control.md R241). -/
def State.statusBit (s : State) (j : Nat) : Bool :=
  s.connected && decide (j = 0) || decide (s.pendingId ≠ 0) && decide (j = 1) || s.matched && decide (j = 2) ||
    decide (s.dir = .toDevice) && decide (j = 3) || s.lastSendValid && decide (j = 4) ||
    decide (8 ≤ j) && s.pendingId.getLsbD (j - 8) || decide (16 ≤ j) && (countByte s.ring.count).getLsbD (j - 16)

theorem getLsbD_setWidth_shiftLeft (b : Byte) {j k : Nat} (hj : j < 32) :
    (b.setWidth 32 <<< k).getLsbD j = (decide (k ≤ j) && b.getLsbD (j - k)) := by
  have hshift : j - k < 32 := by omega
  rw [BitVec.getLsbD_shiftLeft, BitVec.getLsbD_setWidth, decide_eq_true hj, decide_eq_true hshift]
  simp only [Bool.true_and, ← decide_not, Nat.not_lt]

theorem State.getLsbD_statusWord (s : State) {j : Nat} (hj : j < 32) : s.statusWord.getLsbD j = s.statusBit j := by
  simp only [State.statusWord, State.statusBit, BitVec.getLsbD_or, getLsbD_flagBit _ hj,
    getLsbD_setWidth_shiftLeft _ hj]

theorem State.extractLsb'_statusWord {k n : Nat} {y : BitVec n} (hk : k + n ≤ 32)
    (h : ∀ j, j < n → s.statusBit (k + j) = y.getLsbD j) : s.statusWord.extractLsb' k n = y := by
  refine BitVec.eq_of_getLsbD_eq fun j hj => ?_
  rw [BitVec.getLsbD_extractLsb', decide_eq_true hj, Bool.true_and, s.getLsbD_statusWord (by omega), h j hj]

theorem State.statusBit_of_five_le (s : State) {j : Nat} (hj : 5 ≤ j) :
    s.statusBit j =
      (decide (8 ≤ j) && s.pendingId.getLsbD (j - 8) ||
        decide (16 ≤ j) && (countByte s.ring.count).getLsbD (j - 16)) := by
  have hflag : ∀ k, k < 5 → j ≠ k := fun k hk => by omega
  simp [State.statusBit, hflag]

theorem State.statusBit_reserved (s : State) {j : Nat} (hlow : 5 ≤ j) (hhigh : j < 8) : s.statusBit j = false := by
  have hpending : ¬ 8 ≤ j := by omega
  have hcount : ¬ 16 ≤ j := by omega
  simp only [s.statusBit_of_five_le hlow, hpending, hcount, decide_false, Bool.false_and, Bool.or_false]

theorem State.statusBit_pendingId (s : State) {j : Nat} (hj : j < 8) :
    s.statusBit (8 + j) = s.pendingId.getLsbD j := by
  have hcount : ¬ 16 ≤ 8 + j := by omega
  simp [s.statusBit_of_five_le (j := 8 + j) (by omega), hcount]

theorem State.statusBit_above (s : State) (j : Nat) :
    s.statusBit (16 + j) = (countByte s.ring.count).getLsbD j := by
  have hpending : s.pendingId.getLsbD (16 + j - 8) = false := BitVec.getLsbD_of_ge _ _ (by omega)
  simp [s.statusBit_of_five_le (j := 16 + j) (by omega), hpending]

/-- Settles O48: bit by bit, by `State.statusBit`. -/
theorem statusShowsItsFields : Obligations.StatusShowsItsFields := by
  intro s
  refine ⟨?connected, ?pending, ?matched, ?toDevice, ?lastSendValid, ?reserved, ?pendingId, ?count, ?high⟩
  case reserved =>
    exact State.extractLsb'_statusWord (by decide) fun j hj =>
      (s.statusBit_reserved (by omega) (by omega)).trans BitVec.getLsbD_zero.symm
  case pendingId => exact State.extractLsb'_statusWord (by decide) fun _ => s.statusBit_pendingId
  case count => exact State.extractLsb'_statusWord (by decide) fun j _ => s.statusBit_above j
  case high =>
    refine State.extractLsb'_statusWord (by decide) fun j _ => ?_
    have habove : s.statusBit (24 + j) = false := by
      rw [show 24 + j = 16 + (8 + j) by omega, s.statusBit_above, BitVec.getLsbD_of_ge _ _ (by omega)]
    exact habove.trans BitVec.getLsbD_zero.symm
  all_goals rw [s.getLsbD_statusWord (by decide)]; simp [State.statusBit]

/-! ## The commands -/

/-- What CFG_READ answers does not depend on where the sequencer stands. -/
theorem State.cfgValue_busyAt (s : State) (i : Instr) (μ : Micro) (r : CfgReg) :
    (s.busyAt i μ).cfgValue r = s.cfgValue r := by
  cases r <;> rfl

/-- Nor does the register that CFG_WRITE writes. -/
theorem State.cfgStore_busyAt (s : State) (i : Instr) (μ : Micro) (r : CfgReg) (v : CfgWord) :
    (s.busyAt i μ).cfgStore r v = (s.cfgStore r v).map fun written => written.busyAt i μ := by
  cases r <;> rfl

theorem cfgReadStep_index (r : CfgReg) (s : State) : cfgReadStep r.index s = s.goto .cfgLoad := by
  rw [cfgReadStep, cfgReg_index]

theorem cfgLoadStep_index (r : CfgReg) (s : State) :
    cfgLoadStep r.index s = s.goto (.finish .ok (be32Bytes (s.cfgValue r))) := by
  rw [cfgLoadStep, cfgReg_index]

theorem cfgReadStep_unassigned (h : cfgReg idx = none) (s : State) : cfgReadStep idx s = s.raise .param := by
  rw [cfgReadStep, h]

theorem cfgWriteStep_index (h : s.cfgStore r v = some w) :
    cfgWriteStep r.index v s = w.goto (.finish .ok []) := by
  rw [cfgWriteStep, cfgReg_index, Option.bind_some, h]

theorem cfgWriteStep_readOnly (h : idx = 0x0000 ∨ 0x0004 ≤ idx) (v : CfgWord) (s : State) :
    cfgWriteStep idx v s = s.raise .param := by
  rcases cfgWriteStep_cases idx v s with hraise | ⟨hreg, _⟩ | ⟨hreg, _⟩ | ⟨hreg, _⟩
  · exact hraise
  all_goals
    cases eq_index_of_cfgReg hreg
    exact absurd h (by decide)

/-- CFG_READ of a register answers its word and changes nothing but RESULT (44_control.md R247). -/
theorem exec_cfgRead_index (hready : s.ready) (r : CfgReg) :
    exec (.cfgRead r.index) s = .next (s.answered .ok (be32Bytes (s.cfgValue r))) := by
  have hload := cfgLoadStep_index r (s.busyAt (.cfgRead r.index) .cfgLoad)
  rw [State.cfgValue_busyAt] at hload
  exact exec_ready hready
    (.goAt (u := s) (cfgReadStep_index r _) nofun (.goAt (u := s) hload nofun (.finish _ _)))

/-- CFG_WRITE of a writable register makes the write and changes nothing else but RESULT (44_control.md R248). -/
theorem exec_cfgWrite_index (hready : s.ready) (h : s.cfgStore r v = some w) :
    exec (.cfgWrite r.index v) s = .next (w.answered .ok []) := by
  have hstore : (s.busyAt (.cfgWrite r.index v) .start).cfgStore r v =
      some (w.busyAt (.cfgWrite r.index v) .start) := by
    rw [State.cfgStore_busyAt, h, Option.map_some]
  exact exec_ready hready (.goAt (u := w) (cfgWriteStep_index hstore) nofun (.finish _ _))

/-! ## The statements -/

/-- Settles O47: an index is its register's, or it is unassigned. -/
theorem cfgReadAnswersTheRegister : Obligations.CfgReadAnswersTheRegister := by
  refine ⟨fun _ _ => rfl, fun s hready => ?_⟩
  have hread := exec_cfgRead_index hready
  refine ⟨hread .status, hread .respTimeoutMs, hread .reqDelayMs, ?ctrl, hread .ringCapacity, hread .maxResponseLen,
    hread .maxRequestLen, hread .maxOobPayload, hread .channelReadTimeoutMs, fun c => ?oobLen,
    fun _ h => exec_finish hready (cfgReadStep_unassigned (cfgReg_eq_none h) _)⟩
  case ctrl => exact s.be32Bytes_ctrlWord ▸ hread .ctrl
  case oobLen =>
    have hanswer := hread (.oobLen c)
    have hword : be32Bytes (s.cfgValue (.oobLen c)) = _ := be32Bytes_oobLenWord s.build c
    rwa [hword] at hanswer

/-- Settles O49: the three writes `State.cfgStore` has, and Param where it has none. -/
theorem cfgWriteWritesTheWritableRegisters : Obligations.CfgWriteWritesTheWritableRegisters :=
  ⟨fun _ _ _ _ _ _ => rfl, fun _ _ hready =>
    ⟨exec_cfgWrite_index (r := .respTimeoutMs) hready rfl, exec_cfgWrite_index (r := .reqDelayMs) hready rfl,
      exec_cfgWrite_index (r := .ctrl) hready rfl,
      fun _ h => exec_finish hready (cfgWriteStep_readOnly h _ _)⟩⟩

end Sys2Proof.Machine
end

section
/-! No command traps and no step is refused (60_exceptions.md R261): the one refusal of `exec` is another command in
progress, and `step` asks for no such command. -/

namespace Sys2Proof.Machine

variable {i : Instr} {s : State}

/-- A command issued from IDLE, or going on from where it stands, answers a next state. -/
theorem exec_next_of_running (h : s.running i) : ∃ t, exec i s = .next t := by
  rcases exec_cases i s with ⟨_, he⟩ | ⟨_, he⟩ | ⟨⟨j, ν, hother, hne⟩, _⟩
  · exact ⟨_, he⟩
  · exact ⟨_, he⟩
  · rcases h with hidle | ⟨μ, hbusy⟩
    · cases hidle.symm.trans hother
    · cases hbusy.symm.trans hother
      exact absurd rfl hne

/-- The one step without a next state is the fault of a record that is not one command: what `step` runs is the command
in progress, or a new one from IDLE. -/
theorem step_next_or_partialRecord (s : State) : (∃ t, step s = .next t) ∨ step s = .fault .partialRecord := by
  rcases step_cases s with ⟨i, μ, hbusy, he⟩ | ⟨_, _, he⟩ | ⟨_, rest, i, hidle, _, _, he⟩ | ⟨_, _, _, _, _, _, he⟩ |
    ⟨_, _, _, _, he⟩ | ⟨_, _, _, _, he⟩
  · exact .inl (he ▸ exec_next_of_running (.inr ⟨μ, hbusy⟩))
  · exact .inl ⟨_, he⟩
  · exact .inl (he ▸ exec_next_of_running (s := { s with inputs := rest }) (.inl hidle))
  · exact .inl ⟨_, he⟩
  · exact .inr he
  · exact .inl ⟨_, he⟩

/-- Settles O59: a command from IDLE is issued, and a step that answers no next state is a fault. -/
theorem everyIssuedCommandHasANextState : Obligations.EveryIssuedCommandHasANextState := by
  refine ⟨fun _ _ hidle => exec_next_of_running (.inl hidle), fun s r hrefused => ?_⟩
  rcases step_next_or_partialRecord s with ⟨_, hnext⟩ | hfault
  · cases hnext.symm.trans hrefused
  · cases hfault.symm.trans hrefused

/-- Settles O6: the tables of codes as `Status.code` and `LogKind.code` have them, and `Result.bytes` of any result. -/
theorem statusCodesAreNumbered : Obligations.StatusCodesAreNumbered :=
  ⟨rfl, rfl, rfl, fun _ => rfl⟩

end Sys2Proof.Machine
end

section
/-! An environment that never leaves POP_NOTIF alone: what its arrivals and the micro-steps between them come to, round
after round (70_reset_and_hazards.md R303, 43_transport.md R188). -/

namespace Sys2Proof.Machine

variable {s t u : State} {i : Instr} {μ ν : Micro} {k n : Nat} {h l : Byte} {behind : List Byte}

/-! ## A counted run of micro-steps -/

/-- One micro-step of a command at its position, and then `k` more. -/
theorem iterate_seqStep_goAt (hmicro : microOf i μ (s.busyAt i μ) = u.busyAt i ν)
    (ht : seqStep^[k] (u.busyAt i ν) = t) : seqStep^[k + 1] (s.busyAt i μ) = t := by
  have hstep : seqStep (s.busyAt i μ) = u.busyAt i ν := hmicro
  rw [Function.iterate_succ_apply, hstep, ht]

/-- A sequencer that comes to IDLE stays there, so one that is busy at the end of a run was busy before it. -/
theorem phase_ne_idle_of_iterate (hbusy : (seqStep^[k] s).phase ≠ .idle) : s.phase ≠ .idle := fun hidle => by
  have hfixed : seqStep s = s := by rw [seqStep, hidle]
  exact hbusy (by rw [Function.iterate_fixed hfixed, hidle])

/-- RX_READ in POP_NOTIF takes one byte of RX in each micro-step, as long as it needs them (43_transport.md R180). -/
theorem iterate_seqStep_reading {t0 : Time} {r : Reader} {got : List Byte} (front : List Byte)
    (hrx : s.rx = front ++ behind) (hn : got.length + front.length ≤ n)
    (ht : seqStep^[k] (State.busyAt { s with rx := behind } .popNotif (.reading n t0 (got ++ front) r)) = t) :
    seqStep^[k + front.length] (s.busyAt .popNotif (.reading n t0 got r)) = t := by
  induction front generalizing s got with
  | nil => rwa [List.append_nil, State.withRx_self (rest := behind) hrx] at ht
  | cons b front ih =>
    rw [List.length_cons] at hn
    refine iterate_seqStep_goAt (u := { s with rx := front ++ behind }) (ν := .reading n t0 (got ++ [b]) r)
      (readStep_of_cons (s := s.busyAt .popNotif _) (by omega) hrx)
      (ih rfl (by rw [List.length_append, List.length_singleton]; omega) ?_)
    rwa [List.append_assoc, List.singleton_append]

theorem scanPopStep_of_cons (hrx : s.rx = h :: l :: behind) :
    scanPopStep s = State.goto { s with rx := behind } (.scanDecode ⟨h, l⟩) := by
  rw [scanPopStep, hrx]

/-- POP_NOTIF comes from the head of its scan to OOB_DECODE's read, at the pair of a known id (43_transport.md R182,
R183, R188). -/
theorem iterate_seqStep_scan (hrx : s.rx = h :: l :: behind) (hother : s.pendingId = 0 ∨ pair h l ≠ s.pendingId)
    (hknown : s.build.oobLen (pair h l) = some n)
    (ht : seqStep^[k]
      (State.busyAt { s with rx := behind } .popNotif (.readStart (2 * n) (.oob (pair h l) n))) = t) :
    seqStep^[k + 6] (s.busyAt .popNotif .popLoop) = t := by
  have htwo : 2 ≤ s.rx.length := by simp [hrx]
  have hno : ¬ (s.pendingId ≠ 0 ∧ pair h l = s.pendingId) := fun ⟨hid, hpair⟩ => hother.elim hid fun hne => hne hpair
  refine iterate_seqStep_goAt (u := s) (ν := .scanPop) (if_pos htwo) ?_
  refine iterate_seqStep_goAt (u := { s with rx := behind }) (ν := .scanDecode ⟨h, l⟩)
    (scanPopStep_of_cons (s := s.busyAt .popNotif .scanPop) hrx) ?_
  refine iterate_seqStep_goAt (u := { s with rx := behind }) (ν := .scanMatch (pair h l)) rfl ?_
  refine iterate_seqStep_goAt (u := { s with rx := behind }) (ν := .oobLookup (pair h l)) (if_neg hno) ?_
  refine iterate_seqStep_goAt (u := { s with rx := behind }) (ν := .oobKnown (pair h l) (some n))
    (congrArg (fun e => State.busyAt { s with rx := behind } .popNotif (.oobKnown (pair h l) e)) hknown) ?_
  exact iterate_seqStep_goAt rfl ht

/-- OOB_DECODE in POP_NOTIF, with all the payload's characters in RX: it pushes the frame, and POP_NOTIF stands before
its scan again (43_transport.md R183, R188). -/
theorem iterate_seqStep_oobDecode {c : Byte} (payload : List Byte) (hrx : s.rx = payload ++ behind)
    (hlen : payload.length = 2 * n) :
    seqStep^[4 + payload.length + 2] (s.busyAt .popNotif (.readStart (2 * n) (.oob c n))) =
      State.busyAt
        { s with rx := behind, ring := s.ring.push s.build.ringCapacity (c :: decodePairs payload) } .popNotif
        .popLoop := by
  refine iterate_seqStep_goAt (u := s) (ν := .readInit (2 * n) s.now (.oob c n)) rfl ?_
  refine iterate_seqStep_goAt (u := s) (ν := .reading (2 * n) s.now [] (.oob c n)) rfl ?_
  refine iterate_seqStep_reading payload hrx (by simp [hlen]) ?_
  have hall : ¬ payload.length < 2 * n := by omega
  refine iterate_seqStep_goAt (u := { s with rx := behind }) (ν := .readDone payload (.oob c n)) (if_neg hall) ?_
  refine iterate_seqStep_goAt (u := { s with rx := behind }) (ν := .oobPush (c :: decodePairs payload)) (if_neg hall) ?_
  exact iterate_seqStep_goAt (ν := .scanned .oob) rfl (iterate_seqStep_goAt (ν := .popLoop) rfl rfl)

/-- POP_NOTIF decodes a known notification in a micro-step for each of its characters and ten more, and stands before
its scan again (43_transport.md R183, R188; log entry 3). -/
theorem iterate_seqStep_notification {chars : List Byte} (hn : s.isNotification chars)
    (hrx : s.rx = chars ++ behind) :
    seqStep^[chars.length + 10] (s.busyAt .popNotif .popLoop) =
      State.busyAt { s with rx := behind, ring := s.ring.push s.build.ringCapacity (decodePairs chars) } .popNotif
        .popLoop := by
  obtain ⟨h, l, payload, n, rfl, hother, hknown, hlen⟩ := hn
  have hcount : (h :: l :: payload).length + 10 = 4 + payload.length + 2 + 6 := by simp only [List.length_cons]; omega
  rw [hcount]
  exact iterate_seqStep_scan hrx hother hknown (iterate_seqStep_oobDecode payload rfl hlen)

/-! ## A round of moves -/

/-- Micro-steps entered in `inputs` are made one after the other, before what follows them. -/
theorem runInputs_micros (k : Nat) (rest : List Input) (hr : s.running i) (hbusy : (seqStep^[k] s).phase ≠ .idle) :
    runInputs (microOf i) (List.replicate k .seq ++ rest) s = runInputs (microOf i) rest (seqStep^[k] s) := by
  induction k generalizing s with
  | zero => rfl
  | succ k ih =>
    rw [List.replicate_succ, List.cons_append, runInputs, if_neg (phase_ne_idle_of_iterate hbusy),
      seqStepWith_eq i s hr]
    exact ih (seqStep_running i s hr) hbusy

/-- Bytes entered in `inputs` that arrive on the selected side enter RX in order, where it has room for them all
(20_memory.md R69). -/
theorem runInputs_arrivals (micro : Micro → State → State) (chars : List Byte) (rest : List Input)
    (hbusy : s.phase ≠ .idle) (room : s.rx.length + chars.length ≤ s.build.rxFifoDepth) :
    runInputs micro (chars.map (.arrive s.dir) ++ rest) s = runInputs micro rest { s with rx := s.rx ++ chars } := by
  induction chars generalizing s with
  | nil => rw [List.append_nil]; rfl
  | cons b chars ih =>
    rw [List.length_cons] at room
    have hroom : (s.rx ++ [b]).length + chars.length ≤ s.build.rxFifoDepth := by
      rw [List.length_append, List.length_singleton]
      omega
    rw [List.map_cons, List.cons_append, runInputs, if_neg hbusy, s.arrive_room b (by omega),
      List.append_cons s.rx b chars]
    exact ih (s := { s with rx := s.rx ++ [b] }) hbusy hroom

/-- A step of a command in progress runs on the entered moves (10_state.md R36). -/
theorem step_busy_runInputs (hp : s.phase = .busy i μ) : step s = .next (runInputs (microOf i) s.inputs s) := by
  rw [step_busy s i μ hp, exec_eq, runCommand, hp]
  exact if_pos rfl

/-- Where the entered moves end and the environment makes them again, the run ends with them entered once more
(log entry 21). -/
theorem runInputs_nil_cycle {moves : List Input} (micro : Micro → State → State) (hs : s.source = .cycle moves) :
    runInputs micro [] s = { s with inputs := moves } := by
  simp only [runInputs, State.refill, hs]

/-- POP_NOTIF stands before its scan with RX empty, and the environment offers one notification's characters again and
again, with the micro-steps that decode one in between (70_reset_and_hazards.md R303; log entries 3 and 21). -/
structure State.Chattered (s : State) (chars : List Byte) : Prop where
  scanning : s.phase = .busy .popNotif .popLoop
  empty : s.rx = []
  notification : s.isNotification chars
  room : chars.length ≤ s.build.rxFifoDepth
  round : s.inputs = chars.map (.arrive s.dir) ++ List.replicate (chars.length + 10) .seq
  again : s.source = .cycle s.inputs

/-- The ring is not what the environment's moves or POP_NOTIF's scan of them depend on. -/
theorem State.Chattered.withRing {chars : List Byte} (hs : s.Chattered chars) (r : Ring) :
    State.Chattered { s with ring := r } chars :=
  ⟨hs.scanning, hs.empty, hs.notification, hs.room, hs.round, hs.again⟩

/-- One round's micro-steps, behind its arrivals, decode the one notification in RX. -/
theorem State.Chattered.decodes {chars : List Byte} (hs : s.Chattered chars) :
    seqStep^[chars.length + 10] { s with rx := chars } =
      { s with ring := s.ring.push s.build.ringCapacity (decodePairs chars) } := by
  have hdecode := iterate_seqStep_notification (s := { s with rx := chars }) hs.notification (List.append_nil _).symm
  rw [State.busyAt_of_phase (s := { s with rx := chars }) hs.scanning] at hdecode
  rw [hdecode, State.busyAt, ← hs.scanning, ← hs.empty]

/-- A step goes through one round, and nothing but the ring is different behind it. -/
theorem State.Chattered.step_eq {chars : List Byte} (hs : s.Chattered chars) :
    step s = .next { s with ring := s.ring.push s.build.ringCapacity (decodePairs chars) } := by
  have hbusy : s.phase ≠ .idle := by simp [hs.scanning]
  have harrivals := runInputs_arrivals (microOf .popNotif) chars (List.replicate (chars.length + 10) .seq) hbusy
    (by simpa [hs.empty] using hs.room)
  have hmicros := runInputs_micros (s := { s with rx := chars }) (chars.length + 10) [] (.inr ⟨_, hs.scanning⟩)
    (hs.decodes ▸ hbusy)
  rw [hs.empty, List.nil_append, ← hs.round] at harrivals
  rw [List.append_nil, hs.decodes] at hmicros
  rw [step_busy_runInputs hs.scanning, harrivals, hmicros]
  exact congrArg _ (runInputs_nil_cycle _ hs.again)

/-- However many steps such a POP_NOTIF takes, it is as it was, with one frame more in the ring for each. -/
theorem State.Chattered.steps_eq {chars : List Byte} (n : Nat) (hs : s.Chattered chars) :
    s.steps n =
      some { s with ring := (List.replicate n (decodePairs chars)).foldl (Ring.push s.build.ringCapacity) s.ring } := by
  induction n generalizing s with
  | zero => rfl
  | succ n ih =>
    rw [State.steps, hs.step_eq, List.replicate_succ, List.foldl_cons]
    exact ih (hs.withRing _)

/-- Settles O41: by `State.Chattered.steps_eq`, the induction on the number of steps. -/
theorem popNotifScansWithoutEnd : Obligations.PopNotifScansWithoutEnd :=
  fun _ _ hp hrx hn hroom hi hs n => State.Chattered.steps_eq n ⟨hp, hrx, hn, hroom, hi, hs⟩

end Sys2Proof.Machine
end

section
/-! Reset: the values it gives the registers, and what it adds to the outputs (70_reset_and_hazards.md R290, R291). -/

namespace Sys2Proof.Machine

/-- All that reset adds to the outputs is SEL's change to the console, if there is one (R290; log entry 7). -/
theorem State.assertReset_adds_only_sel (s : State) :
    ∃ sel, s.assertReset.history = s.history ++ sel ∧ ∀ e ∈ sel, e = .sel .toConsole := by
  refine ⟨_, s.assertReset_history, fun e he => ?_⟩
  split at he
  · cases he
  · exact List.mem_singleton.mp he

/-- CTRL[31:1] are not implemented, whatever RELEASE is (44_control.md R244). -/
theorem State.ctrlWord_reserved (s : State) : s.ctrlWord.extractLsb' 1 31 = 0 := by
  rw [State.ctrlWord]
  cases s.release <;> rfl

/-- Settles O53: register by register, and `State.assertReset_adds_only_sel` for the outputs. -/
theorem resetAbortsTheCommand : Obligations.ResetAbortsTheCommand := by
  rintro s _ rfl
  exact ⟨s.assertReset_connected, s.assertReset_pendingId, s.assertReset_expectedLen, s.assertReset_matched,
    s.assertReset_lastSendValid, s.assertReset_dir, rfl, rfl, rfl, s.assertReset_rx, s.assertReset_tx,
    s.assertReset_phase, s.assertReset_result, s.assertReset_respTimeoutMs, s.assertReset_reqDelayMs,
    s.assertReset_release, s.assertReset_adds_only_sel⟩

/-- Another reset changes nothing in the state after reset. -/
theorem State.reset_move_reset : State.reset = State.reset.move .reset := rfl

/-- Settles O54: the values of O53, at a state that reset leaves as it is. -/
theorem resetStateHasTheStatedValues : Obligations.ResetStateHasTheStatedValues := by
  obtain ⟨connected, pendingId, expectedLen, matched, lastSendValid, dir, rd, wr, count, rx, tx, phase, result,
    respTimeoutMs, reqDelayMs, release, -⟩ := resetAbortsTheCommand State.reset _ State.reset_move_reset
  exact ⟨connected, pendingId, expectedLen, matched, lastSendValid, dir, rd, wr, count, rx, tx, phase, result,
    respTimeoutMs, reqDelayMs, release, State.reset.ctrlWord_reserved⟩

end Sys2Proof.Machine
end
